-- ==== Sys2Proof/Word.lean ====
section
/-! DEFINITION. The widths the machine moves: bytes, words and 20-bit flat addresses (R11, R12, R16). -/

namespace Sys2Proof

/-- An 8-bit value (R16). -/
abbrev Byte := BitVec 8

/-- A 16-bit value: a register, an offset, a segment number (R11). -/
abbrev Word := BitVec 16

/-- A flat address, 20 bits (R12). -/
abbrev Addr := BitVec 20

/-- A byte stream read by position: the code bytes a decoder is given (R213). -/
abbrev Code := Nat → Byte

end Sys2Proof
end

