-- ==== Sys2Proof/Config.lean ====
section
/-! DEFINITION. What is fixed for a run: the parameters of R13, and the free values ("draws") of R14. -/

namespace Sys2Proof

/-- `EXEC_PROFILE` (R4, D1). -/
inductive ExecProfile where
  | source
  | full
  deriving DecidableEq, Repr

/-- `BP_DEFAULT_SEGMENT` (R421, D8). -/
inductive BpSegment where
  | ss
  | ds
  deriving DecidableEq, Repr

/-- `WORD_WRAP` (R211, D6). -/
inductive WordWrap where
  | flat
  | segment
  deriving DecidableEq, Repr

/-- `LOCK_PREFIX` (R307, D14). -/
inductive LockPrefix where
  | invalid
  | ignore
  deriving DecidableEq, Repr

/-- `DIV_ERROR_MODE` (R1120, D19). -/
inductive DivErrorMode where
  | report
  | vector
  deriving DecidableEq, Repr

/-- `DECODE_TRACE` (R233, D24). -/
inductive DecodeTrace where
  | contained
  | reference
  deriving DecidableEq, Repr

/-- The parameter table of R13, each field with the default that rule gives. -/
structure Params where
  /-- `MEM_SIZE` (R204). -/
  memSize : Nat := 1048576
  /-- `EXEC_PROFILE` (R406). -/
  execProfile : ExecProfile := .source
  /-- `BP_DEFAULT_SEGMENT` (R421). -/
  bpDefaultSegment : BpSegment := .ss
  /-- `FLAGS_FIXED_ONES` (R122). -/
  flagsFixedOnes : Word := 0xF02A#16
  /-- `WORD_WRAP` (R211). -/
  wordWrap : WordWrap := .flat
  /-- `LOCK_PREFIX` (R307). -/
  lockPrefix : LockPrefix := .invalid
  /-- `DIV_ERROR_MODE` (R1120). -/
  divErrorMode : DivErrorMode := .report
  /-- `IDIV_8086_RANGE` (R512). -/
  idiv8086Range : Bool := true
  /-- `MAX_INSN_LEN` (R309). -/
  maxInsnLen : Nat := 16
  /-- `DECODE_TRACE` (R233). -/
  decodeTrace : DecodeTrace := .contained
  /-- `PORT_DEVICES` (R240): a set of port numbers, of which only membership matters. -/
  portDevices : List Word := []
  deriving DecidableEq, Repr

/-- The defaults of R13. -/
def Params.default : Params := {}

/-- The parameters of preset `hw8086` (R1203). -/
def Params.hw8086 : Params :=
  { flagsFixedOnes := 0xF002#16, wordWrap := .segment, execProfile := .full, divErrorMode := .vector }

/-- The values R13 allows: MEM_SIZE from 1 to 2^20 and MAX_INSN_LEN at least 6. -/
def Params.valid (p : Params) : Bool :=
  decide (1 ≤ p.memSize) && decide (p.memSize ≤ 1048576) && decide (6 ≤ p.maxInsnLen)

/-- The free bit of draw number `n` (R14, R456): nothing constrains it. -/
opaque Config.freeBit : Nat → Bool

/-- The free byte of draw number `n`: a port device's answer (R241). Nothing constrains it. -/
opaque Config.freeByte : Nat → Byte

/-- The free order of draw number `n` in which the decoder fetches an instruction's bytes, before the
limits R233 sets for `DECODE_TRACE = contained` are applied. Nothing constrains it. -/
opaque Config.freeTrace : Nat → List Nat

end Sys2Proof
end

