-- ==== Sys2Proof/Forms.lean ====
section
/-! DEFINITION. The vocabulary of the instruction set: register names, memory operands, the operand
forms of each instruction class, the class tags and the decode errors (R102, R110, R311, R330, R341, R342). -/

namespace Sys2Proof

/-- The word registers in the order of their numbers (R102). -/
inductive Reg16 where
  | ax | cx | dx | bx | sp | bp | si | di
  deriving DecidableEq, Repr

/-- The byte registers in the order of their numbers (R102). -/
inductive Reg8 where
  | al | cl | dl | bl | ah | ch | dh | bh
  deriving DecidableEq, Repr

/-- The segment registers in the order of their numbers (R110). -/
inductive SReg where
  | es | cs | ss | ds
  deriving DecidableEq, Repr

/-- The eight base/index combinations in the order of the rm field (R311). -/
inductive Base where
  | bxsi | bxdi | bpsi | bpdi | si | di | bp | bx
  deriving DecidableEq, Repr

/-- A memory operand as ModRM encodes it (R312, R313). The two displacement sizes stay apart because
they are different bytes; R342's `displaced` is either of them. -/
inductive MemOp where
  /-- mod = 00: a combination with no displacement. -/
  | indirect (b : Base)
  /-- mod = 01: a combination plus a sign-extended byte. -/
  | disp8 (b : Base) (d : Byte)
  /-- mod = 10: a combination plus a word. -/
  | disp16 (b : Base) (d : Word)
  /-- mod = 00, rm = 110: an absolute offset. -/
  | direct (off : Word)
  deriving DecidableEq, Repr

/-- A register-or-memory operand, the register of type `ρ` (R313, R314). -/
inductive Rm (ρ : Type) where
  | reg (r : ρ)
  | mem (m : MemOp)
  deriving DecidableEq, Repr

/-- The forms of a two-operand ALU instruction: the six primary forms (R440) and group 1 (R323). -/
inductive AluForm where
  | ebgb (e : Rm Reg8) (g : Reg8)
  | ewgw (e : Rm Reg16) (g : Reg16)
  | gbeb (g : Reg8) (e : Rm Reg8)
  | gwew (g : Reg16) (e : Rm Reg16)
  | alib (v : Byte)
  | axiw (v : Word)
  /-- 0x80 -/
  | ebib (e : Rm Reg8) (v : Byte)
  /-- 0x81 -/
  | ewiw (e : Rm Reg16) (v : Word)
  /-- 0x82, the same operation as 0x80 (D16) -/
  | ebibAlias (e : Rm Reg8) (v : Byte)
  /-- 0x83, the immediate byte sign-extended (R331) -/
  | ewibs (e : Rm Reg16) (v : Byte)
  deriving DecidableEq, Repr

/-- The forms of TEST (R604). -/
inductive TestForm where
  | ebgb (e : Rm Reg8) (g : Reg8)
  | ewgw (e : Rm Reg16) (g : Reg16)
  | alib (v : Byte)
  | axiw (v : Word)
  | ebib (e : Rm Reg8) (v : Byte)
  | ewiw (e : Rm Reg16) (v : Word)
  deriving DecidableEq, Repr

/-- The forms of INC and DEC (R506, R507). -/
inductive IncForm where
  | r16 (r : Reg16)
  | eb (e : Rm Reg8)
  | ew (e : Rm Reg16)
  deriving DecidableEq, Repr

/-- The two widths of a one-operand group 3 instruction (R325). -/
inductive UnForm where
  | eb (e : Rm Reg8)
  | ew (e : Rm Reg16)
  deriving DecidableEq, Repr

/-- The forms of a shift or rotate (R324): width, and count 1 or CL. -/
inductive ShiftForm where
  | eb1 (e : Rm Reg8)
  | ew1 (e : Rm Reg16)
  | ebcl (e : Rm Reg8)
  | ewcl (e : Rm Reg16)
  deriving DecidableEq, Repr

/-- The forms of MOV (R701). -/
inductive MovForm where
  | ebgb (e : Rm Reg8) (g : Reg8)
  | ewgw (e : Rm Reg16) (g : Reg16)
  | gbeb (g : Reg8) (e : Rm Reg8)
  | gwew (g : Reg16) (e : Rm Reg16)
  | ewsw (e : Rm Reg16) (g : SReg)
  | swew (g : SReg) (e : Rm Reg16)
  | alob (off : Word)
  | axow (off : Word)
  | obal (off : Word)
  | owax (off : Word)
  | r8ib (r : Reg8) (v : Byte)
  | r16iw (r : Reg16) (v : Word)
  | ebib (e : Rm Reg8) (v : Byte)
  | ewiw (e : Rm Reg16) (v : Word)
  deriving DecidableEq, Repr

/-- The forms of XCHG (R702). -/
inductive XchgForm where
  | ebgb (e : Rm Reg8) (g : Reg8)
  | ewgw (e : Rm Reg16) (g : Reg16)
  | axr16 (r : Reg16)
  deriving DecidableEq, Repr

/-- The forms of PUSH and POP (R710, R711). -/
inductive StackForm where
  | r16 (r : Reg16)
  | sreg (g : SReg)
  | ew (e : Rm Reg16)
  deriving DecidableEq, Repr

/-- The forms of JMP (R901, R902). -/
inductive JmpForm where
  | short (d : Byte)
  | near (d : Word)
  | ind (e : Rm Reg16)
  deriving DecidableEq, Repr

/-- The forms of CALL (R910, R911). -/
inductive CallForm where
  | near (d : Word)
  | ind (e : Rm Reg16)
  deriving DecidableEq, Repr

/-- The forms of JMPF and CALLF (R903, R904, R912, R913): a far pointer, or one read from memory. -/
inductive FarForm where
  | ptr (seg off : Word)
  | ind (m : MemOp)
  deriving DecidableEq, Repr

/-- The forms of RET and RETF (R914 to R917). -/
inductive RetForm where
  | plain
  | imm (v : Word)
  deriving DecidableEq, Repr

/-- The forms of IN and OUT (R1001, R1002): accumulator width, and port by immediate or in DX. -/
inductive PortForm where
  | alib (p : Byte)
  | axib (p : Byte)
  | aldx
  | axdx
  deriving DecidableEq, Repr

/-- The seven prefix bytes (R304, R305, R307). -/
inductive Prefix where
  | es | cs | ss | ds | rep | repne | lock
  deriving DecidableEq, Repr

/-- The repeat mode of the decode context, when there is one (R303). -/
inductive Rep where
  | repE
  | repNe
  deriving DecidableEq, Repr

/-- The reasons of a decode error (R352, R1101). -/
inductive DecodeReason where
  | invalidOpcode
  | badModrm
  | tooLong
  deriving DecidableEq, Repr

/-- Whether a form executes in profile `source` (R362) or only in `full` (R4). -/
inductive Tier where
  | source
  | general
  deriving DecidableEq, Repr

/-- The closed class enumeration of R341: 97 instruction classes and the three reserved tags. -/
inductive Class where
  | add | or | adc | sbb | and | sub | xor | cmp | push | pop | daa | das | aaa | aas | inc | dec
  | jo | jno | jb | jnb | jz | jnz | jbe | ja | js | jns | jp | jnp | jl | jnl | jle | jg
  | test | xchg | mov | lea | nop | cbw | cwd | callf | wait | pushf | popf | sahf | lahf
  | movsb | movsw | cmpsb | cmpsw | stosb | stosw | lodsb | lodsw | scasb | scasw
  | ret | les | lds | retf | int3 | int | into | iret | rol | ror | rcl | rcr | shl | shr | sar
  | aam | aad | xlat | esc | loopnz | loopz | loop | jcxz | inp | out | call | jmp | jmpf
  | hlt | cmc | not | neg | mul | imul | div | idiv | clc | stc | cli | sti | cld | std
  | pfx | group | invalid
  deriving DecidableEq, Repr

end Sys2Proof
end

