-- ==== Sys2Proof/Syntax.lean ====
section
/-! DEFINITION. The instructions: one constructor for each mnemonic of opcode_table.json, the rows of
that mnemonic being the forms of its operand (R341, R380). An instruction holds everything R340 lists:
its class (the constructor), its operands, its prefixes (the constructors around it, outermost first),
and so its raw bytes (`Instr.encode`) and its size (`Instr.len`). -/

namespace Sys2Proof

/-- A decoded instruction (R340, R341). -/
inductive Instr where
  -- prefixes: the prefix byte, then the instruction it prefixes (format PREFIX of R301)
  | es (j : Instr)
  | cs (j : Instr)
  | ss (j : Instr)
  | ds (j : Instr)
  | rep (j : Instr)
  | repne (j : Instr)
  | lock (j : Instr)
  -- an encoding the decoder rejects: why, and the bytes it read (R350, R352, R1101)
  | invalid (why : DecodeReason) (bytes : List Byte)
  -- arithmetic (R501 to R520)
  | add (f : AluForm)
  | adc (f : AluForm)
  | sub (f : AluForm)
  | sbb (f : AluForm)
  | cmp (f : AluForm)
  | inc (f : IncForm)
  | dec (f : IncForm)
  | neg (f : UnForm)
  | mul (f : UnForm)
  | imul (f : UnForm)
  | div (f : UnForm)
  | idiv (f : UnForm)
  | daa
  | das
  | aaa
  | aas
  | aam (n : Byte)
  | aad (n : Byte)
  | cbw
  | cwd
  -- logic, shifts and rotates (R601 to R613)
  | and (f : AluForm)
  | or (f : AluForm)
  | xor (f : AluForm)
  | test (f : TestForm)
  | not (f : UnForm)
  | rol (f : ShiftForm)
  | ror (f : ShiftForm)
  | rcl (f : ShiftForm)
  | rcr (f : ShiftForm)
  | shl (f : ShiftForm)
  | shr (f : ShiftForm)
  | sar (f : ShiftForm)
  -- data transfer (R701 to R713)
  | mov (f : MovForm)
  | xchg (f : XchgForm)
  | nop
  | lea (g : Reg16) (m : MemOp)
  | lds (g : Reg16) (m : MemOp)
  | les (g : Reg16) (m : MemOp)
  | xlat
  | lahf
  | sahf
  | push (f : StackForm)
  | pop (f : StackForm)
  | pushf
  | popf
  -- strings (R802 to R806)
  | movsb
  | movsw
  | cmpsb
  | cmpsw
  | scasb
  | scasw
  | lodsb
  | lodsw
  | stosb
  | stosw
  -- control transfer (R901 to R921)
  | jmp (f : JmpForm)
  | jmpf (f : FarForm)
  | jo (d : Byte)
  | jno (d : Byte)
  | jb (d : Byte)
  | jnb (d : Byte)
  | jz (d : Byte)
  | jnz (d : Byte)
  | jbe (d : Byte)
  | ja (d : Byte)
  | js (d : Byte)
  | jns (d : Byte)
  | jp (d : Byte)
  | jnp (d : Byte)
  | jl (d : Byte)
  | jnl (d : Byte)
  | jle (d : Byte)
  | jg (d : Byte)
  | jcxz (d : Byte)
  | loop (d : Byte)
  | loopz (d : Byte)
  | loopnz (d : Byte)
  | call (f : CallForm)
  | callf (f : FarForm)
  | ret (f : RetForm)
  | retf (f : RetForm)
  | int (n : Byte)
  | int3
  | into
  | iret
  -- ports, flag control and the rest (R1001 to R1012)
  | inp (f : PortForm)
  | out (f : PortForm)
  | clc
  | stc
  | cmc
  | cld
  | std
  | cli
  | sti
  | hlt
  | wait
  -- the low three opcode bits, the ModRM reg field (no operand), and the operand without a width
  | esc (n reg : BitVec 3) (e : Rm (BitVec 3))
  deriving DecidableEq, Repr

end Sys2Proof
end

