-- ==== Sys2Proof/WellFormed.lean ====
section
/-! DEFINITION. Which terms of `Instr` an encoding exists for. -/

namespace Sys2Proof

/-- mod = 00 with rm = 110 is the direct form, so no encoding names an indirect `bp` (R312). -/
def MemOp.wf : MemOp → Bool
  | .indirect b => decide (b ≠ .bp)
  | .disp8 _ _ => true
  | .disp16 _ _ => true
  | .direct _ => true

def Rm.wf {ρ : Type} : Rm ρ → Bool
  | .reg _ => true
  | .mem m => m.wf

def AluForm.wf : AluForm → Bool
  | .ebgb e _ => e.wf
  | .ewgw e _ => e.wf
  | .gbeb _ e => e.wf
  | .gwew _ e => e.wf
  | .alib _ => true
  | .axiw _ => true
  | .ebib e _ => e.wf
  | .ewiw e _ => e.wf
  | .ebibAlias e _ => e.wf
  | .ewibs e _ => e.wf

def TestForm.wf : TestForm → Bool
  | .ebgb e _ => e.wf
  | .ewgw e _ => e.wf
  | .alib _ => true
  | .axiw _ => true
  | .ebib e _ => e.wf
  | .ewiw e _ => e.wf

def IncForm.wf : IncForm → Bool
  | .r16 _ => true
  | .eb e => e.wf
  | .ew e => e.wf

def UnForm.wf : UnForm → Bool
  | .eb e => e.wf
  | .ew e => e.wf

def ShiftForm.wf : ShiftForm → Bool
  | .eb1 e => e.wf
  | .ew1 e => e.wf
  | .ebcl e => e.wf
  | .ewcl e => e.wf

/-- MOV to CS is an invalid encoding (R333). -/
def MovForm.wf : MovForm → Bool
  | .ebgb e _ => e.wf
  | .ewgw e _ => e.wf
  | .gbeb _ e => e.wf
  | .gwew _ e => e.wf
  | .ewsw e _ => e.wf
  | .swew g e => decide (g ≠ .cs) && e.wf
  | .alob _ => true
  | .axow _ => true
  | .obal _ => true
  | .owax _ => true
  | .r8ib _ _ => true
  | .r16iw _ _ => true
  | .ebib e _ => e.wf
  | .ewiw e _ => e.wf

/-- XCHG AX, AX is the encoding of NOP (R702, R703). -/
def XchgForm.wf : XchgForm → Bool
  | .ebgb e _ => e.wf
  | .ewgw e _ => e.wf
  | .axr16 r => decide (r ≠ .ax)

def StackForm.wf : StackForm → Bool
  | .r16 _ => true
  | .sreg _ => true
  | .ew e => e.wf

def JmpForm.wf : JmpForm → Bool
  | .short _ => true
  | .near _ => true
  | .ind e => e.wf

def CallForm.wf : CallForm → Bool
  | .near _ => true
  | .ind e => e.wf

def FarForm.wf : FarForm → Bool
  | .ptr _ _ => true
  | .ind m => m.wf

/-- The instruction has an encoding under the parameters `p`, length aside: LOCK needs
`LOCK_PREFIX = ignore` (R307), POP CS is invalid (R350), and a rejected encoding is no instruction (R341). -/
def Instr.wf (p : Params) : Instr → Bool
  | .es j => j.wf p
  | .cs j => j.wf p
  | .ss j => j.wf p
  | .ds j => j.wf p
  | .rep j => j.wf p
  | .repne j => j.wf p
  | .lock j => decide (p.lockPrefix = .ignore) && j.wf p
  | .invalid _ _ => false
  | .add f => f.wf
  | .adc f => f.wf
  | .sub f => f.wf
  | .sbb f => f.wf
  | .cmp f => f.wf
  | .inc f => f.wf
  | .dec f => f.wf
  | .neg f => f.wf
  | .mul f => f.wf
  | .imul f => f.wf
  | .div f => f.wf
  | .idiv f => f.wf
  | .daa => true
  | .das => true
  | .aaa => true
  | .aas => true
  | .aam _ => true
  | .aad _ => true
  | .cbw => true
  | .cwd => true
  | .and f => f.wf
  | .or f => f.wf
  | .xor f => f.wf
  | .test f => f.wf
  | .not f => f.wf
  | .rol f => f.wf
  | .ror f => f.wf
  | .rcl f => f.wf
  | .rcr f => f.wf
  | .shl f => f.wf
  | .shr f => f.wf
  | .sar f => f.wf
  | .mov f => f.wf
  | .xchg f => f.wf
  | .nop => true
  | .lea _ m => m.wf
  | .lds _ m => m.wf
  | .les _ m => m.wf
  | .xlat => true
  | .lahf => true
  | .sahf => true
  | .push f => f.wf
  | .pop f => f.wf && decide (f ≠ .sreg .cs)
  | .pushf => true
  | .popf => true
  | .movsb => true
  | .movsw => true
  | .cmpsb => true
  | .cmpsw => true
  | .scasb => true
  | .scasw => true
  | .lodsb => true
  | .lodsw => true
  | .stosb => true
  | .stosw => true
  | .jmp f => f.wf
  | .jmpf f => f.wf
  | .jo _ => true
  | .jno _ => true
  | .jb _ => true
  | .jnb _ => true
  | .jz _ => true
  | .jnz _ => true
  | .jbe _ => true
  | .ja _ => true
  | .js _ => true
  | .jns _ => true
  | .jp _ => true
  | .jnp _ => true
  | .jl _ => true
  | .jnl _ => true
  | .jle _ => true
  | .jg _ => true
  | .jcxz _ => true
  | .loop _ => true
  | .loopz _ => true
  | .loopnz _ => true
  | .call f => f.wf
  | .callf f => f.wf
  | .ret _ => true
  | .retf _ => true
  | .int _ => true
  | .int3 => true
  | .into => true
  | .iret => true
  | .inp _ => true
  | .out _ => true
  | .clc => true
  | .stc => true
  | .cmc => true
  | .cld => true
  | .std => true
  | .cli => true
  | .sti => true
  | .hlt => true
  | .wait => true
  | .esc _ _ e => e.wf

end Sys2Proof
end

