-- ==== Sys2Proof/Decode.lean ====
section
/-! DEFINITION. The decoder (R300 to R362) and, after it, the encoder written from the same tables.
Also what is read off an instruction as syntax: its length, its class (R341) and its tier (R362). -/

namespace Sys2Proof

/-! ### Bytes and fields -/

/-- Bits 7..0 of a word. -/
def loByte (v : Word) : Byte := v.extractLsb' 0 8

/-- Bits 15..8 of a word. -/
def hiByte (v : Word) : Byte := v.extractLsb' 8 8

/-- `hi ++ lo` (R16). -/
def wordOf (lo hi : Byte) : Word := hi ++ lo

/-- A word as bytes, low byte first (R210). -/
def wordBytes (v : Word) : List Byte := [loByte v, hiByte v]

/-- The little-endian word at position `k` of a byte stream (R210, R213). -/
def wordAt (c : Code) (k : Nat) : Word := wordOf (c k) (c (k + 1))

/-- Sign extension of a byte to a word (R331, R332). -/
def sext16 (v : Byte) : Word := v.signExtend 16

/-- A finite list of bytes as a byte stream: reads past the end yield zero (D4). -/
def streamOf (bs : List Byte) : Code := fun k => bs.getD k 0#8

/-- ModRM bits 7..6 (R310). -/
def modField (m : Byte) : BitVec 2 := m.extractLsb' 6 2

/-- ModRM bits 5..3 (R310). -/
def regField (m : Byte) : BitVec 3 := m.extractLsb' 3 3

/-- ModRM bits 2..0 (R310). -/
def rmField (m : Byte) : BitVec 3 := m.extractLsb' 0 3

/-- The ModRM byte with these fields (R310). -/
def modrmByte (mod : BitVec 2) (reg rm : BitVec 3) : Byte := mod ++ reg ++ rm

/-! ### Register and combination numbers -/

/-- Word register numbers (R102). -/
def Reg16.num : Reg16 → BitVec 3
  | .ax => 0#3
  | .cx => 1#3
  | .dx => 2#3
  | .bx => 3#3
  | .sp => 4#3
  | .bp => 5#3
  | .si => 6#3
  | .di => 7#3

/-- The inverse of `Reg16.num`. -/
def Reg16.ofNum (k : BitVec 3) : Reg16 :=
  match k.toNat with
  | 0 => .ax
  | 1 => .cx
  | 2 => .dx
  | 3 => .bx
  | 4 => .sp
  | 5 => .bp
  | 6 => .si
  | _ => .di

/-- Byte register numbers (R102). -/
def Reg8.num : Reg8 → BitVec 3
  | .al => 0#3
  | .cl => 1#3
  | .dl => 2#3
  | .bl => 3#3
  | .ah => 4#3
  | .ch => 5#3
  | .dh => 6#3
  | .bh => 7#3

/-- The inverse of `Reg8.num`. -/
def Reg8.ofNum (k : BitVec 3) : Reg8 :=
  match k.toNat with
  | 0 => .al
  | 1 => .cl
  | 2 => .dl
  | 3 => .bl
  | 4 => .ah
  | 5 => .ch
  | 6 => .dh
  | _ => .bh

/-- The rm field of a base/index combination (R311). -/
def Base.num : Base → BitVec 3
  | .bxsi => 0#3
  | .bxdi => 1#3
  | .bpsi => 2#3
  | .bpdi => 3#3
  | .si => 4#3
  | .di => 5#3
  | .bp => 6#3
  | .bx => 7#3

/-- The inverse of `Base.num`. -/
def Base.ofNum (k : BitVec 3) : Base :=
  match k.toNat with
  | 0 => .bxsi
  | 1 => .bxdi
  | 2 => .bpsi
  | 3 => .bpdi
  | 4 => .si
  | 5 => .di
  | 6 => .bp
  | _ => .bx

/-- Segment register numbers (R110). -/
def SReg.num : SReg → BitVec 3
  | .es => 0#3
  | .cs => 1#3
  | .ss => 2#3
  | .ds => 3#3

/-- The segment register a reg field names, if it names one (R333). -/
def SReg.ofNum? (k : BitVec 3) : Option SReg :=
  match k.toNat with
  | 0 => some .es
  | 1 => some .cs
  | 2 => some .ss
  | 3 => some .ds
  | _ => none

/-! ### ModRM operands -/

/-- The number of displacement bytes a ModRM byte selects (R313). -/
def dispLen (m : Byte) : Nat :=
  match (modField m).toNat with
  | 0 => if rmField m = 6#3 then 2 else 0
  | 1 => 1
  | 2 => 2
  | _ => 0

/-- The memory operand of the ModRM byte at position 1, its displacement at position 2 (R312, R313). -/
def memOpAt (c : Code) : MemOp :=
  match (modField (c 1)).toNat with
  | 0 => if rmField (c 1) = 6#3 then .direct (wordAt c 2) else .indirect (Base.ofNum (rmField (c 1)))
  | 1 => .disp8 (Base.ofNum (rmField (c 1))) (c 2)
  | _ => .disp16 (Base.ofNum (rmField (c 1))) (wordAt c 2)

/-- The `E` operand of the ModRM byte at position 1: a register when mod = 11 (R314), else memory. -/
def rmOpAt {ρ : Type} (ofNum : BitVec 3 → ρ) (c : Code) : Rm ρ :=
  if modField (c 1) = 3#2 then .reg (ofNum (rmField (c 1))) else .mem (memOpAt c)

/-- `Eb` (R330). -/
def ebAt (c : Code) : Rm Reg8 := rmOpAt Reg8.ofNum c

/-- `Ew` (R330). -/
def ewAt (c : Code) : Rm Reg16 := rmOpAt Reg16.ofNum c

/-- `Ez`: no width, so the register keeps its number (R330, R342). -/
def ezAt (c : Code) : Rm (BitVec 3) := rmOpAt id c

/-- `Gb` (R330). -/
def gbAt (c : Code) : Reg8 := Reg8.ofNum (regField (c 1))

/-- `Gw` (R330). -/
def gwAt (c : Code) : Reg16 := Reg16.ofNum (regField (c 1))

/-- The position of an immediate that follows a ModRM byte and its displacement (R315). -/
def immPos (c : Code) : Nat := 2 + dispLen (c 1)

/-! ### The length of an instruction (R301) -/

/-- Displacement bytes of a memory operand (R313). -/
def MemOp.dlen : MemOp → Nat
  | .indirect _ => 0
  | .disp8 _ _ => 1
  | .disp16 _ _ => 2
  | .direct _ => 2

/-- Displacement bytes of a register-or-memory operand (R313). -/
def Rm.dlen {ρ : Type} : Rm ρ → Nat
  | .reg _ => 0
  | .mem m => m.dlen

/-- R440, R323. -/
def AluForm.len : AluForm → Nat
  | .ebgb e _ => 2 + e.dlen
  | .ewgw e _ => 2 + e.dlen
  | .gbeb _ e => 2 + e.dlen
  | .gwew _ e => 2 + e.dlen
  | .alib _ => 2
  | .axiw _ => 3
  | .ebib e _ => 3 + e.dlen
  | .ewiw e _ => 4 + e.dlen
  | .ebibAlias e _ => 3 + e.dlen
  | .ewibs e _ => 3 + e.dlen

/-- R604. -/
def TestForm.len : TestForm → Nat
  | .ebgb e _ => 2 + e.dlen
  | .ewgw e _ => 2 + e.dlen
  | .alib _ => 2
  | .axiw _ => 3
  | .ebib e _ => 3 + e.dlen
  | .ewiw e _ => 4 + e.dlen

/-- R506. -/
def IncForm.len : IncForm → Nat
  | .r16 _ => 1
  | .eb e => 2 + e.dlen
  | .ew e => 2 + e.dlen

/-- R325. -/
def UnForm.len : UnForm → Nat
  | .eb e => 2 + e.dlen
  | .ew e => 2 + e.dlen

/-- R324. -/
def ShiftForm.len : ShiftForm → Nat
  | .eb1 e => 2 + e.dlen
  | .ew1 e => 2 + e.dlen
  | .ebcl e => 2 + e.dlen
  | .ewcl e => 2 + e.dlen

/-- R701. -/
def MovForm.len : MovForm → Nat
  | .ebgb e _ => 2 + e.dlen
  | .ewgw e _ => 2 + e.dlen
  | .gbeb _ e => 2 + e.dlen
  | .gwew _ e => 2 + e.dlen
  | .ewsw e _ => 2 + e.dlen
  | .swew _ e => 2 + e.dlen
  | .alob _ => 3
  | .axow _ => 3
  | .obal _ => 3
  | .owax _ => 3
  | .r8ib _ _ => 2
  | .r16iw _ _ => 3
  | .ebib e _ => 3 + e.dlen
  | .ewiw e _ => 4 + e.dlen

/-- R702. -/
def XchgForm.len : XchgForm → Nat
  | .ebgb e _ => 2 + e.dlen
  | .ewgw e _ => 2 + e.dlen
  | .axr16 _ => 1

/-- R710, R711. -/
def StackForm.len : StackForm → Nat
  | .r16 _ => 1
  | .sreg _ => 1
  | .ew e => 2 + e.dlen

/-- R901, R902. -/
def JmpForm.len : JmpForm → Nat
  | .short _ => 2
  | .near _ => 3
  | .ind e => 2 + e.dlen

/-- R910, R911. -/
def CallForm.len : CallForm → Nat
  | .near _ => 3
  | .ind e => 2 + e.dlen

/-- R903, R904. -/
def FarForm.len : FarForm → Nat
  | .ptr _ _ => 5
  | .ind m => 2 + m.dlen

/-- R914 to R917. -/
def RetForm.len : RetForm → Nat
  | .plain => 1
  | .imm _ => 3

/-- R1001, R1002. -/
def PortForm.len : PortForm → Nat
  | .alib _ => 2
  | .axib _ => 2
  | .aldx => 1
  | .axdx => 1

/-- The size in bytes, prefixes included: `ins.size` of R344. -/
def Instr.len : Instr → Nat
  | .es j => j.len + 1
  | .cs j => j.len + 1
  | .ss j => j.len + 1
  | .ds j => j.len + 1
  | .rep j => j.len + 1
  | .repne j => j.len + 1
  | .lock j => j.len + 1
  | .invalid _ bytes => bytes.length
  | .add f => f.len
  | .adc f => f.len
  | .sub f => f.len
  | .sbb f => f.len
  | .cmp f => f.len
  | .inc f => f.len
  | .dec f => f.len
  | .neg f => f.len
  | .mul f => f.len
  | .imul f => f.len
  | .div f => f.len
  | .idiv f => f.len
  | .daa => 1
  | .das => 1
  | .aaa => 1
  | .aas => 1
  | .aam _ => 2
  | .aad _ => 2
  | .cbw => 1
  | .cwd => 1
  | .and f => f.len
  | .or f => f.len
  | .xor f => f.len
  | .test f => f.len
  | .not f => f.len
  | .rol f => f.len
  | .ror f => f.len
  | .rcl f => f.len
  | .rcr f => f.len
  | .shl f => f.len
  | .shr f => f.len
  | .sar f => f.len
  | .mov f => f.len
  | .xchg f => f.len
  | .nop => 1
  | .lea _ m => 2 + m.dlen
  | .lds _ m => 2 + m.dlen
  | .les _ m => 2 + m.dlen
  | .xlat => 1
  | .lahf => 1
  | .sahf => 1
  | .push f => f.len
  | .pop f => f.len
  | .pushf => 1
  | .popf => 1
  | .movsb => 1
  | .movsw => 1
  | .cmpsb => 1
  | .cmpsw => 1
  | .scasb => 1
  | .scasw => 1
  | .lodsb => 1
  | .lodsw => 1
  | .stosb => 1
  | .stosw => 1
  | .jmp f => f.len
  | .jmpf f => f.len
  | .jo _ => 2
  | .jno _ => 2
  | .jb _ => 2
  | .jnb _ => 2
  | .jz _ => 2
  | .jnz _ => 2
  | .jbe _ => 2
  | .ja _ => 2
  | .js _ => 2
  | .jns _ => 2
  | .jp _ => 2
  | .jnp _ => 2
  | .jl _ => 2
  | .jnl _ => 2
  | .jle _ => 2
  | .jg _ => 2
  | .jcxz _ => 2
  | .loop _ => 2
  | .loopz _ => 2
  | .loopnz _ => 2
  | .call f => f.len
  | .callf f => f.len
  | .ret f => f.len
  | .retf f => f.len
  | .int _ => 2
  | .int3 => 1
  | .into => 1
  | .iret => 1
  | .inp f => f.len
  | .out f => f.len
  | .clc => 1
  | .stc => 1
  | .cmc => 1
  | .cld => 1
  | .std => 1
  | .cli => 1
  | .sti => 1
  | .hlt => 1
  | .wait => 1
  | .esc _ _ e => 2 + e.dlen

/-! ### Class and tier -/

/-- The class tag; a prefixed instruction has the class of the instruction it prefixes (R341). -/
def Instr.cls : Instr → Class
  | .es j => j.cls
  | .cs j => j.cls
  | .ss j => j.cls
  | .ds j => j.cls
  | .rep j => j.cls
  | .repne j => j.cls
  | .lock j => j.cls
  | .invalid _ _ => .invalid
  | .add _ => .add
  | .adc _ => .adc
  | .sub _ => .sub
  | .sbb _ => .sbb
  | .cmp _ => .cmp
  | .inc _ => .inc
  | .dec _ => .dec
  | .neg _ => .neg
  | .mul _ => .mul
  | .imul _ => .imul
  | .div _ => .div
  | .idiv _ => .idiv
  | .daa => .daa
  | .das => .das
  | .aaa => .aaa
  | .aas => .aas
  | .aam _ => .aam
  | .aad _ => .aad
  | .cbw => .cbw
  | .cwd => .cwd
  | .and _ => .and
  | .or _ => .or
  | .xor _ => .xor
  | .test _ => .test
  | .not _ => .not
  | .rol _ => .rol
  | .ror _ => .ror
  | .rcl _ => .rcl
  | .rcr _ => .rcr
  | .shl _ => .shl
  | .shr _ => .shr
  | .sar _ => .sar
  | .mov _ => .mov
  | .xchg _ => .xchg
  | .nop => .nop
  | .lea _ _ => .lea
  | .lds _ _ => .lds
  | .les _ _ => .les
  | .xlat => .xlat
  | .lahf => .lahf
  | .sahf => .sahf
  | .push _ => .push
  | .pop _ => .pop
  | .pushf => .pushf
  | .popf => .popf
  | .movsb => .movsb
  | .movsw => .movsw
  | .cmpsb => .cmpsb
  | .cmpsw => .cmpsw
  | .scasb => .scasb
  | .scasw => .scasw
  | .lodsb => .lodsb
  | .lodsw => .lodsw
  | .stosb => .stosb
  | .stosw => .stosw
  | .jmp _ => .jmp
  | .jmpf _ => .jmpf
  | .jo _ => .jo
  | .jno _ => .jno
  | .jb _ => .jb
  | .jnb _ => .jnb
  | .jz _ => .jz
  | .jnz _ => .jnz
  | .jbe _ => .jbe
  | .ja _ => .ja
  | .js _ => .js
  | .jns _ => .jns
  | .jp _ => .jp
  | .jnp _ => .jnp
  | .jl _ => .jl
  | .jnl _ => .jnl
  | .jle _ => .jle
  | .jg _ => .jg
  | .jcxz _ => .jcxz
  | .loop _ => .loop
  | .loopz _ => .loopz
  | .loopnz _ => .loopnz
  | .call _ => .call
  | .callf _ => .callf
  | .ret _ => .ret
  | .retf _ => .retf
  | .int _ => .int
  | .int3 => .int3
  | .into => .into
  | .iret => .iret
  | .inp _ => .inp
  | .out _ => .out
  | .clc => .clc
  | .stc => .stc
  | .cmc => .cmc
  | .cld => .cld
  | .std => .std
  | .cli => .cli
  | .sti => .sti
  | .hlt => .hlt
  | .wait => .wait
  | .esc _ _ _ => .esc

/-- JMP: the relative forms are tier `source` (R362). -/
def JmpForm.tier : JmpForm → Tier
  | .short _ => .source
  | .near _ => .source
  | .ind _ => .general

/-- CALL: the relative form is tier `source` (R362). -/
def CallForm.tier : CallForm → Tier
  | .near _ => .source
  | .ind _ => .general

/-- RET: the form without an immediate is tier `source` (R362). -/
def RetForm.tier : RetForm → Tier
  | .plain => .source
  | .imm _ => .general

/-- The tier of a decoded form: the rows of opcode_table.json (R362). -/
def Instr.tier : Instr → Tier
  | .es j => j.tier
  | .cs j => j.tier
  | .ss j => j.tier
  | .ds j => j.tier
  | .rep j => j.tier
  | .repne j => j.tier
  | .lock j => j.tier
  | .invalid _ _ => .general
  | .add _ => .source
  | .adc _ => .general
  | .sub _ => .general
  | .sbb _ => .general
  | .cmp _ => .source
  | .inc _ => .source
  | .dec _ => .source
  | .neg _ => .general
  | .mul _ => .general
  | .imul _ => .general
  | .div _ => .general
  | .idiv _ => .general
  | .daa => .general
  | .das => .general
  | .aaa => .general
  | .aas => .general
  | .aam _ => .general
  | .aad _ => .general
  | .cbw => .general
  | .cwd => .general
  | .and _ => .general
  | .or _ => .general
  | .xor _ => .source
  | .test _ => .general
  | .not _ => .general
  | .rol _ => .general
  | .ror _ => .general
  | .rcl _ => .general
  | .rcr _ => .general
  | .shl _ => .general
  | .shr _ => .general
  | .sar _ => .general
  | .mov _ => .source
  | .xchg _ => .general
  | .nop => .general
  | .lea _ _ => .general
  | .lds _ _ => .general
  | .les _ _ => .general
  | .xlat => .general
  | .lahf => .general
  | .sahf => .general
  | .push _ => .source
  | .pop _ => .source
  | .pushf => .general
  | .popf => .general
  | .movsb => .general
  | .movsw => .general
  | .cmpsb => .general
  | .cmpsw => .general
  | .scasb => .source
  | .scasw => .source
  | .lodsb => .general
  | .lodsw => .general
  | .stosb => .source
  | .stosw => .source
  | .jmp f => f.tier
  | .jmpf _ => .general
  | .jo _ => .source
  | .jno _ => .source
  | .jb _ => .source
  | .jnb _ => .source
  | .jz _ => .source
  | .jnz _ => .source
  | .jbe _ => .source
  | .ja _ => .source
  | .js _ => .source
  | .jns _ => .source
  | .jp _ => .source
  | .jnp _ => .source
  | .jl _ => .source
  | .jnl _ => .source
  | .jle _ => .source
  | .jg _ => .source
  | .jcxz _ => .general
  | .loop _ => .general
  | .loopz _ => .general
  | .loopnz _ => .general
  | .call f => f.tier
  | .callf _ => .general
  | .ret f => f.tier
  | .retf _ => .general
  | .int _ => .general
  | .int3 => .general
  | .into => .general
  | .iret => .general
  | .inp _ => .source
  | .out _ => .source
  | .clc => .source
  | .stc => .source
  | .cmc => .general
  | .cld => .source
  | .std => .source
  | .cli => .source
  | .sti => .source
  | .hlt => .source
  | .wait => .general
  | .esc _ _ _ => .general

/-! ### The decoder -/

/-- What decoding gives: an instruction, or a decode error with its reason and the number of bytes read (R352). -/
inductive DecodeResult where
  | ok (i : Instr)
  | error (why : DecodeReason) (read : Nat)
  deriving DecidableEq, Repr

/-- The six ALU forms by opcode bits 2..0 (R440). -/
def aluFormAt (k : Nat) (c : Code) : AluForm :=
  match k with
  | 0 => .ebgb (ebAt c) (gbAt c)
  | 1 => .ewgw (ewAt c) (gwAt c)
  | 2 => .gbeb (gbAt c) (ebAt c)
  | 3 => .gwew (gwAt c) (ewAt c)
  | 4 => .alib (c 1)
  | _ => .axiw (wordAt c 1)

/-- The ALU operation with number `op` (R440, R323). -/
def aluInstr (op : Nat) (f : AluForm) : Instr :=
  match op with
  | 0 => .add f
  | 1 => .or f
  | 2 => .adc f
  | 3 => .sbb f
  | 4 => .and f
  | 5 => .sub f
  | 6 => .xor f
  | _ => .cmp f

/-- Group 2: the shift or rotate selected by the reg field; reg = 6 is invalid (R324). -/
def shiftInstr (c : Code) (f : ShiftForm) : DecodeResult :=
  match (regField (c 1)).toNat with
  | 0 => .ok (.rol f)
  | 1 => .ok (.ror f)
  | 2 => .ok (.rcl f)
  | 3 => .ok (.rcr f)
  | 4 => .ok (.shl f)
  | 5 => .ok (.shr f)
  | 6 => .error .invalidOpcode 2
  | _ => .ok (.sar f)

/-- Group 3: reg = 1 is invalid (R325). -/
def group3 (c : Code) (t : TestForm) (f : UnForm) : DecodeResult :=
  match (regField (c 1)).toNat with
  | 0 => .ok (.test t)
  | 1 => .error .invalidOpcode 2
  | 2 => .ok (.not f)
  | 3 => .ok (.neg f)
  | 4 => .ok (.mul f)
  | 5 => .ok (.imul f)
  | 6 => .ok (.div f)
  | _ => .ok (.idiv f)

/-- A single-entry group: only reg = 0 is valid (R326). -/
def group0 (c : Code) (i : Instr) : DecodeResult :=
  if regField (c 1) = 0#3 then .ok i else .error .invalidOpcode 2

/-- A memory-only operand: mod = 11 is a decode error (R334). -/
def memOnly (c : Code) (k : MemOp → Instr) : DecodeResult :=
  if modField (c 1) = 3#2 then .error .badModrm 2 else .ok (k (memOpAt c))

/-- 0xFE (R326). -/
def group4 (c : Code) : DecodeResult :=
  match (regField (c 1)).toNat with
  | 0 => .ok (.inc (.eb (ebAt c)))
  | 1 => .ok (.dec (.eb (ebAt c)))
  | _ => .error .invalidOpcode 2

/-- 0xFF (R326). -/
def group5 (c : Code) : DecodeResult :=
  match (regField (c 1)).toNat with
  | 0 => .ok (.inc (.ew (ewAt c)))
  | 1 => .ok (.dec (.ew (ewAt c)))
  | 2 => .ok (.call (.ind (ewAt c)))
  | 3 => memOnly c fun m => .callf (.ind m)
  | 4 => .ok (.jmp (.ind (ewAt c)))
  | 5 => memOnly c fun m => .jmpf (.ind m)
  | 6 => .ok (.push (.ew (ewAt c)))
  | _ => .error .invalidOpcode 2

/-- 0x8C `Ew,Sw`: the `E` operand is decoded, its displacement read, before the segment field is (R333, R346). -/
def movFromSreg (c : Code) : DecodeResult :=
  match SReg.ofNum? (regField (c 1)) with
  | some g => .ok (.mov (.ewsw (ewAt c) g))
  | none => .error .badModrm (immPos c)

/-- 0x8E `Sw,Ew`: the segment field is decoded first, and CS is refused (R333, R346). Two files of the spec
differ on the reason for MOV to CS: R1101 says bad_modrm, 93_implementation_defined.md I2 invalid_opcode. The
model takes R1101's. DEDUCED, notes/assumptions/21.md. -/
def movToSreg (c : Code) : DecodeResult :=
  match SReg.ofNum? (regField (c 1)) with
  | some .cs => .error .badModrm 2
  | some g => .ok (.mov (.swew g (ewAt c)))
  | none => .error .badModrm 2

/-- A far pointer, offset word first (R336). -/
def farPtrAt (c : Code) : FarForm := .ptr (wordAt c 3) (wordAt c 1)

/-- Opcodes 0x00 to 0x0F by their low nibble (R360, R361). -/
def opcodeRow0 (lo : Nat) (c : Code) : DecodeResult :=
  match lo with
  | 0 => .ok (aluInstr 0 (aluFormAt 0 c))
  | 1 => .ok (aluInstr 0 (aluFormAt 1 c))
  | 2 => .ok (aluInstr 0 (aluFormAt 2 c))
  | 3 => .ok (aluInstr 0 (aluFormAt 3 c))
  | 4 => .ok (aluInstr 0 (aluFormAt 4 c))
  | 5 => .ok (aluInstr 0 (aluFormAt 5 c))
  | 6 => .ok (.push (.sreg .es))
  | 7 => .ok (.pop (.sreg .es))
  | 8 => .ok (aluInstr 1 (aluFormAt 0 c))
  | 9 => .ok (aluInstr 1 (aluFormAt 1 c))
  | 10 => .ok (aluInstr 1 (aluFormAt 2 c))
  | 11 => .ok (aluInstr 1 (aluFormAt 3 c))
  | 12 => .ok (aluInstr 1 (aluFormAt 4 c))
  | 13 => .ok (aluInstr 1 (aluFormAt 5 c))
  | 14 => .ok (.push (.sreg .cs))
  | _ => .error .invalidOpcode 1

/-- Opcodes 0x10 to 0x1F by their low nibble (R360, R361). -/
def opcodeRow1 (lo : Nat) (c : Code) : DecodeResult :=
  match lo with
  | 0 => .ok (aluInstr 2 (aluFormAt 0 c))
  | 1 => .ok (aluInstr 2 (aluFormAt 1 c))
  | 2 => .ok (aluInstr 2 (aluFormAt 2 c))
  | 3 => .ok (aluInstr 2 (aluFormAt 3 c))
  | 4 => .ok (aluInstr 2 (aluFormAt 4 c))
  | 5 => .ok (aluInstr 2 (aluFormAt 5 c))
  | 6 => .ok (.push (.sreg .ss))
  | 7 => .ok (.pop (.sreg .ss))
  | 8 => .ok (aluInstr 3 (aluFormAt 0 c))
  | 9 => .ok (aluInstr 3 (aluFormAt 1 c))
  | 10 => .ok (aluInstr 3 (aluFormAt 2 c))
  | 11 => .ok (aluInstr 3 (aluFormAt 3 c))
  | 12 => .ok (aluInstr 3 (aluFormAt 4 c))
  | 13 => .ok (aluInstr 3 (aluFormAt 5 c))
  | 14 => .ok (.push (.sreg .ds))
  | _ => .ok (.pop (.sreg .ds))

/-- Opcodes 0x20 to 0x2F by their low nibble (R360, R361). -/
def opcodeRow2 (lo : Nat) (c : Code) : DecodeResult :=
  match lo with
  | 0 => .ok (aluInstr 4 (aluFormAt 0 c))
  | 1 => .ok (aluInstr 4 (aluFormAt 1 c))
  | 2 => .ok (aluInstr 4 (aluFormAt 2 c))
  | 3 => .ok (aluInstr 4 (aluFormAt 3 c))
  | 4 => .ok (aluInstr 4 (aluFormAt 4 c))
  | 5 => .ok (aluInstr 4 (aluFormAt 5 c))
  | 6 => .error .invalidOpcode 1
  | 7 => .ok .daa
  | 8 => .ok (aluInstr 5 (aluFormAt 0 c))
  | 9 => .ok (aluInstr 5 (aluFormAt 1 c))
  | 10 => .ok (aluInstr 5 (aluFormAt 2 c))
  | 11 => .ok (aluInstr 5 (aluFormAt 3 c))
  | 12 => .ok (aluInstr 5 (aluFormAt 4 c))
  | 13 => .ok (aluInstr 5 (aluFormAt 5 c))
  | 14 => .error .invalidOpcode 1
  | _ => .ok .das

/-- Opcodes 0x30 to 0x3F by their low nibble (R360, R361). -/
def opcodeRow3 (lo : Nat) (c : Code) : DecodeResult :=
  match lo with
  | 0 => .ok (aluInstr 6 (aluFormAt 0 c))
  | 1 => .ok (aluInstr 6 (aluFormAt 1 c))
  | 2 => .ok (aluInstr 6 (aluFormAt 2 c))
  | 3 => .ok (aluInstr 6 (aluFormAt 3 c))
  | 4 => .ok (aluInstr 6 (aluFormAt 4 c))
  | 5 => .ok (aluInstr 6 (aluFormAt 5 c))
  | 6 => .error .invalidOpcode 1
  | 7 => .ok .aaa
  | 8 => .ok (aluInstr 7 (aluFormAt 0 c))
  | 9 => .ok (aluInstr 7 (aluFormAt 1 c))
  | 10 => .ok (aluInstr 7 (aluFormAt 2 c))
  | 11 => .ok (aluInstr 7 (aluFormAt 3 c))
  | 12 => .ok (aluInstr 7 (aluFormAt 4 c))
  | 13 => .ok (aluInstr 7 (aluFormAt 5 c))
  | 14 => .error .invalidOpcode 1
  | _ => .ok .aas

/-- Opcodes 0x40 to 0x4F by their low nibble (R360, R361). -/
def opcodeRow4 (lo : Nat) : DecodeResult :=
  match lo with
  | 0 => .ok (.inc (.r16 .ax))
  | 1 => .ok (.inc (.r16 .cx))
  | 2 => .ok (.inc (.r16 .dx))
  | 3 => .ok (.inc (.r16 .bx))
  | 4 => .ok (.inc (.r16 .sp))
  | 5 => .ok (.inc (.r16 .bp))
  | 6 => .ok (.inc (.r16 .si))
  | 7 => .ok (.inc (.r16 .di))
  | 8 => .ok (.dec (.r16 .ax))
  | 9 => .ok (.dec (.r16 .cx))
  | 10 => .ok (.dec (.r16 .dx))
  | 11 => .ok (.dec (.r16 .bx))
  | 12 => .ok (.dec (.r16 .sp))
  | 13 => .ok (.dec (.r16 .bp))
  | 14 => .ok (.dec (.r16 .si))
  | _ => .ok (.dec (.r16 .di))

/-- Opcodes 0x50 to 0x5F by their low nibble (R360, R361). -/
def opcodeRow5 (lo : Nat) : DecodeResult :=
  match lo with
  | 0 => .ok (.push (.r16 .ax))
  | 1 => .ok (.push (.r16 .cx))
  | 2 => .ok (.push (.r16 .dx))
  | 3 => .ok (.push (.r16 .bx))
  | 4 => .ok (.push (.r16 .sp))
  | 5 => .ok (.push (.r16 .bp))
  | 6 => .ok (.push (.r16 .si))
  | 7 => .ok (.push (.r16 .di))
  | 8 => .ok (.pop (.r16 .ax))
  | 9 => .ok (.pop (.r16 .cx))
  | 10 => .ok (.pop (.r16 .dx))
  | 11 => .ok (.pop (.r16 .bx))
  | 12 => .ok (.pop (.r16 .sp))
  | 13 => .ok (.pop (.r16 .bp))
  | 14 => .ok (.pop (.r16 .si))
  | _ => .ok (.pop (.r16 .di))

/-- Opcodes 0x70 to 0x7F by their low nibble (R360, R361). -/
def opcodeRow7 (lo : Nat) (c : Code) : DecodeResult :=
  match lo with
  | 0 => .ok (.jo (c 1))
  | 1 => .ok (.jno (c 1))
  | 2 => .ok (.jb (c 1))
  | 3 => .ok (.jnb (c 1))
  | 4 => .ok (.jz (c 1))
  | 5 => .ok (.jnz (c 1))
  | 6 => .ok (.jbe (c 1))
  | 7 => .ok (.ja (c 1))
  | 8 => .ok (.js (c 1))
  | 9 => .ok (.jns (c 1))
  | 10 => .ok (.jp (c 1))
  | 11 => .ok (.jnp (c 1))
  | 12 => .ok (.jl (c 1))
  | 13 => .ok (.jnl (c 1))
  | 14 => .ok (.jle (c 1))
  | _ => .ok (.jg (c 1))

/-- Opcodes 0x80 to 0x8F by their low nibble (R360, R361). -/
def opcodeRow8 (lo : Nat) (c : Code) : DecodeResult :=
  match lo with
  | 0 => .ok (aluInstr (regField (c 1)).toNat (.ebib (ebAt c) (c (immPos c))))
  | 1 => .ok (aluInstr (regField (c 1)).toNat (.ewiw (ewAt c) (wordAt c (immPos c))))
  | 2 => .ok (aluInstr (regField (c 1)).toNat (.ebibAlias (ebAt c) (c (immPos c))))
  | 3 => .ok (aluInstr (regField (c 1)).toNat (.ewibs (ewAt c) (c (immPos c))))
  | 4 => .ok (.test (.ebgb (ebAt c) (gbAt c)))
  | 5 => .ok (.test (.ewgw (ewAt c) (gwAt c)))
  | 6 => .ok (.xchg (.ebgb (ebAt c) (gbAt c)))
  | 7 => .ok (.xchg (.ewgw (ewAt c) (gwAt c)))
  | 8 => .ok (.mov (.ebgb (ebAt c) (gbAt c)))
  | 9 => .ok (.mov (.ewgw (ewAt c) (gwAt c)))
  | 10 => .ok (.mov (.gbeb (gbAt c) (ebAt c)))
  | 11 => .ok (.mov (.gwew (gwAt c) (ewAt c)))
  | 12 => movFromSreg c
  | 13 => memOnly c fun m => .lea (gwAt c) m
  | 14 => movToSreg c
  | _ => group0 c (.pop (.ew (ewAt c)))

/-- Opcodes 0x90 to 0x9F by their low nibble (R360, R361). -/
def opcodeRow9 (lo : Nat) (c : Code) : DecodeResult :=
  match lo with
  | 0 => .ok .nop
  | 1 => .ok (.xchg (.axr16 .cx))
  | 2 => .ok (.xchg (.axr16 .dx))
  | 3 => .ok (.xchg (.axr16 .bx))
  | 4 => .ok (.xchg (.axr16 .sp))
  | 5 => .ok (.xchg (.axr16 .bp))
  | 6 => .ok (.xchg (.axr16 .si))
  | 7 => .ok (.xchg (.axr16 .di))
  | 8 => .ok .cbw
  | 9 => .ok .cwd
  | 10 => .ok (.callf (farPtrAt c))
  | 11 => .ok .wait
  | 12 => .ok .pushf
  | 13 => .ok .popf
  | 14 => .ok .sahf
  | _ => .ok .lahf

/-- Opcodes 0xA0 to 0xAF by their low nibble (R360, R361). -/
def opcodeRowA (lo : Nat) (c : Code) : DecodeResult :=
  match lo with
  | 0 => .ok (.mov (.alob (wordAt c 1)))
  | 1 => .ok (.mov (.axow (wordAt c 1)))
  | 2 => .ok (.mov (.obal (wordAt c 1)))
  | 3 => .ok (.mov (.owax (wordAt c 1)))
  | 4 => .ok .movsb
  | 5 => .ok .movsw
  | 6 => .ok .cmpsb
  | 7 => .ok .cmpsw
  | 8 => .ok (.test (.alib (c 1)))
  | 9 => .ok (.test (.axiw (wordAt c 1)))
  | 10 => .ok .stosb
  | 11 => .ok .stosw
  | 12 => .ok .lodsb
  | 13 => .ok .lodsw
  | 14 => .ok .scasb
  | _ => .ok .scasw

/-- Opcodes 0xB0 to 0xBF by their low nibble (R360, R361). -/
def opcodeRowB (lo : Nat) (c : Code) : DecodeResult :=
  match lo with
  | 0 => .ok (.mov (.r8ib .al (c 1)))
  | 1 => .ok (.mov (.r8ib .cl (c 1)))
  | 2 => .ok (.mov (.r8ib .dl (c 1)))
  | 3 => .ok (.mov (.r8ib .bl (c 1)))
  | 4 => .ok (.mov (.r8ib .ah (c 1)))
  | 5 => .ok (.mov (.r8ib .ch (c 1)))
  | 6 => .ok (.mov (.r8ib .dh (c 1)))
  | 7 => .ok (.mov (.r8ib .bh (c 1)))
  | 8 => .ok (.mov (.r16iw .ax (wordAt c 1)))
  | 9 => .ok (.mov (.r16iw .cx (wordAt c 1)))
  | 10 => .ok (.mov (.r16iw .dx (wordAt c 1)))
  | 11 => .ok (.mov (.r16iw .bx (wordAt c 1)))
  | 12 => .ok (.mov (.r16iw .sp (wordAt c 1)))
  | 13 => .ok (.mov (.r16iw .bp (wordAt c 1)))
  | 14 => .ok (.mov (.r16iw .si (wordAt c 1)))
  | _ => .ok (.mov (.r16iw .di (wordAt c 1)))

/-- Opcodes 0xC0 to 0xCF by their low nibble (R360, R361). -/
def opcodeRowC (lo : Nat) (c : Code) : DecodeResult :=
  match lo with
  | 0 => .error .invalidOpcode 1
  | 1 => .error .invalidOpcode 1
  | 2 => .ok (.ret (.imm (wordAt c 1)))
  | 3 => .ok (.ret .plain)
  | 4 => memOnly c fun m => .les (gwAt c) m
  | 5 => memOnly c fun m => .lds (gwAt c) m
  | 6 => group0 c (.mov (.ebib (ebAt c) (c (immPos c))))
  | 7 => group0 c (.mov (.ewiw (ewAt c) (wordAt c (immPos c))))
  | 8 => .error .invalidOpcode 1
  | 9 => .error .invalidOpcode 1
  | 10 => .ok (.retf (.imm (wordAt c 1)))
  | 11 => .ok (.retf .plain)
  | 12 => .ok .int3
  | 13 => .ok (.int (c 1))
  | 14 => .ok .into
  | _ => .ok .iret

/-- Opcodes 0xD0 to 0xDF by their low nibble (R360, R361). -/
def opcodeRowD (lo : Nat) (c : Code) : DecodeResult :=
  match lo with
  | 0 => shiftInstr c (.eb1 (ebAt c))
  | 1 => shiftInstr c (.ew1 (ewAt c))
  | 2 => shiftInstr c (.ebcl (ebAt c))
  | 3 => shiftInstr c (.ewcl (ewAt c))
  | 4 => .ok (.aam (c 1))
  | 5 => .ok (.aad (c 1))
  | 6 => .error .invalidOpcode 1
  | 7 => .ok .xlat
  | 8 => .ok (.esc 0#3 (regField (c 1)) (ezAt c))
  | 9 => .ok (.esc 1#3 (regField (c 1)) (ezAt c))
  | 10 => .ok (.esc 2#3 (regField (c 1)) (ezAt c))
  | 11 => .ok (.esc 3#3 (regField (c 1)) (ezAt c))
  | 12 => .ok (.esc 4#3 (regField (c 1)) (ezAt c))
  | 13 => .ok (.esc 5#3 (regField (c 1)) (ezAt c))
  | 14 => .ok (.esc 6#3 (regField (c 1)) (ezAt c))
  | _ => .ok (.esc 7#3 (regField (c 1)) (ezAt c))

/-- Opcodes 0xE0 to 0xEF by their low nibble (R360, R361). -/
def opcodeRowE (lo : Nat) (c : Code) : DecodeResult :=
  match lo with
  | 0 => .ok (.loopnz (c 1))
  | 1 => .ok (.loopz (c 1))
  | 2 => .ok (.loop (c 1))
  | 3 => .ok (.jcxz (c 1))
  | 4 => .ok (.inp (.alib (c 1)))
  | 5 => .ok (.inp (.axib (c 1)))
  | 6 => .ok (.out (.alib (c 1)))
  | 7 => .ok (.out (.axib (c 1)))
  | 8 => .ok (.call (.near (wordAt c 1)))
  | 9 => .ok (.jmp (.near (wordAt c 1)))
  | 10 => .ok (.jmpf (farPtrAt c))
  | 11 => .ok (.jmp (.short (c 1)))
  | 12 => .ok (.inp .aldx)
  | 13 => .ok (.inp .axdx)
  | 14 => .ok (.out .aldx)
  | _ => .ok (.out .axdx)

/-- Opcodes 0xF0 to 0xFF by their low nibble (R360, R361). -/
def opcodeRowF (lo : Nat) (c : Code) : DecodeResult :=
  match lo with
  | 0 => .error .invalidOpcode 1
  | 1 => .error .invalidOpcode 1
  | 2 => .error .invalidOpcode 1
  | 3 => .error .invalidOpcode 1
  | 4 => .ok .hlt
  | 5 => .ok .cmc
  | 6 => group3 c (.ebib (ebAt c) (c (immPos c))) (.eb (ebAt c))
  | 7 => group3 c (.ewiw (ewAt c) (wordAt c (immPos c))) (.ew (ewAt c))
  | 8 => .ok .clc
  | 9 => .ok .stc
  | 10 => .ok .cli
  | 11 => .ok .sti
  | 12 => .ok .cld
  | 13 => .ok .std
  | 14 => group4 c
  | _ => group5 c

/-- The instruction whose opcode byte is at position 0 (R320, R346): the opcode map by its high nibble.
Prefix bytes and 0xF0 count as invalid here; the prefix loop has taken them. -/
def decodeBody (c : Code) : DecodeResult :=
  let lo := (c 0).toNat % 16
  match (c 0).toNat / 16 with
  | 0 => opcodeRow0 lo c
  | 1 => opcodeRow1 lo c
  | 2 => opcodeRow2 lo c
  | 3 => opcodeRow3 lo c
  | 4 => opcodeRow4 lo
  | 5 => opcodeRow5 lo
  | 6 => .error .invalidOpcode 1
  | 7 => opcodeRow7 lo c
  | 8 => opcodeRow8 lo c
  | 9 => opcodeRow9 lo c
  | 10 => opcodeRowA lo c
  | 11 => opcodeRowB lo c
  | 12 => opcodeRowC lo c
  | 13 => opcodeRowD lo c
  | 14 => opcodeRowE lo c
  | _ => opcodeRowF lo c

/-- The prefix a byte stands for, if it is one: six byte values, and 0xF0 when `LOCK_PREFIX = ignore`
(R304, R305, R307). -/
def prefixAt (p : Params) (b : Byte) : Option Prefix :=
  if b = 0x26#8 then some .es
  else if b = 0x2E#8 then some .cs
  else if b = 0x36#8 then some .ss
  else if b = 0x3E#8 then some .ds
  else if b = 0xF3#8 then some .rep
  else if b = 0xF2#8 then some .repne
  else if b = 0xF0#8 ∧ p.lockPrefix = .ignore then some .lock
  else none

/-- The instruction a prefix stands before, with that prefix (format PREFIX of R301). -/
def Prefix.wrap : Prefix → Instr → Instr
  | .es, j => .es j
  | .cs, j => .cs j
  | .ss, j => .ss j
  | .ds, j => .ds j
  | .rep, j => .rep j
  | .repne, j => .repne j
  | .lock, j => .lock j

/-- A decode result seen from one prefix byte earlier. -/
def DecodeResult.under (q : Prefix) : DecodeResult → DecodeResult
  | .ok i => .ok (q.wrap i)
  | .error why n => .error why (n + 1)

/-- The length check after operand decode, with `room` bytes left of `MAX_INSN_LEN` (R309). -/
def DecodeResult.fit (room : Nat) : DecodeResult → DecodeResult
  | .ok i => if i.len ≤ room then .ok i else .error .tooLong i.len
  | .error why n => .error why n

/-- The prefix loop and the instruction after it, with `room` bytes left of `MAX_INSN_LEN` (R346). -/
def decodeWithin (p : Params) : Nat → Code → DecodeResult
  | 0, _ => .error .tooLong 0
  | room + 1, c =>
    match prefixAt p (c 0) with
    | some q => (decodeWithin p room fun k => c (k + 1)).under q
    | none => (decodeBody c).fit (room + 1)

/-- The decoder (R346): total on every byte stream (R352). -/
def decode (p : Params) (c : Code) : DecodeResult :=
  decodeWithin p p.maxInsnLen c

/-- The number of bytes decoding read: the instruction's size, or those up to the failure (R344, R1101). -/
def DecodeResult.read : DecodeResult → Nat
  | .ok i => i.len
  | .error _ n => n

/-- The decode result as a term of `Instr`: a decode error becomes `invalid`, with the bytes read from `c`. -/
def DecodeResult.instr (c : Code) : DecodeResult → Instr
  | .ok i => i
  | .error why n => .invalid why ((List.range n).map c)

/-! ### The encoder -/

/-- A prefix's byte (R304, R305, R307). -/
def Prefix.byte : Prefix → Byte
  | .es => 0x26#8
  | .cs => 0x2E#8
  | .ss => 0x36#8
  | .ds => 0x3E#8
  | .rep => 0xF3#8
  | .repne => 0xF2#8
  | .lock => 0xF0#8

/-- ModRM with the reg field given, then the displacement (R313). -/
def MemOp.encode (reg : BitVec 3) : MemOp → List Byte
  | .indirect b => [modrmByte 0#2 reg b.num]
  | .disp8 b d => [modrmByte 1#2 reg b.num, d]
  | .disp16 b d => modrmByte 2#2 reg b.num :: wordBytes d
  | .direct off => modrmByte 0#2 reg 6#3 :: wordBytes off

/-- ModRM with the reg field given, for a register or a memory operand (R313, R314). -/
def Rm.encode {ρ : Type} (num : ρ → BitVec 3) (reg : BitVec 3) : Rm ρ → List Byte
  | .reg r => [modrmByte 3#2 reg (num r)]
  | .mem m => m.encode reg

/-- A byte operand with its reg field. -/
def encB (reg : BitVec 3) (e : Rm Reg8) : List Byte := e.encode Reg8.num reg

/-- A word operand with its reg field. -/
def encW (reg : BitVec 3) (e : Rm Reg16) : List Byte := e.encode Reg16.num reg

/-- The ALU operation with number `op`: primary opcodes `8 op + form` and group 1 with reg = `op` (R440, R323). -/
def AluForm.encode (op : BitVec 3) : AluForm → List Byte
  | .ebgb e g => (0#2 ++ op ++ 0#3 : Byte) :: encB g.num e
  | .ewgw e g => (0#2 ++ op ++ 1#3 : Byte) :: encW g.num e
  | .gbeb g e => (0#2 ++ op ++ 2#3 : Byte) :: encB g.num e
  | .gwew g e => (0#2 ++ op ++ 3#3 : Byte) :: encW g.num e
  | .alib v => [(0#2 ++ op ++ 4#3 : Byte), v]
  | .axiw v => (0#2 ++ op ++ 5#3 : Byte) :: wordBytes v
  | .ebib e v => 0x80#8 :: encB op e ++ [v]
  | .ewiw e v => 0x81#8 :: encW op e ++ wordBytes v
  | .ebibAlias e v => 0x82#8 :: encB op e ++ [v]
  | .ewibs e v => 0x83#8 :: encW op e ++ [v]

def TestForm.encode : TestForm → List Byte
  | .ebgb e g => 0x84#8 :: encB g.num e
  | .ewgw e g => 0x85#8 :: encW g.num e
  | .alib v => [0xA8#8, v]
  | .axiw v => 0xA9#8 :: wordBytes v
  | .ebib e v => 0xF6#8 :: encB 0#3 e ++ [v]
  | .ewiw e v => 0xF7#8 :: encW 0#3 e ++ wordBytes v

/-- INC (op = 0) or DEC (op = 1): 0x40 and 0x48, or groups 4 and 5 (R506, R507). -/
def IncForm.encode (op : BitVec 3) : IncForm → List Byte
  | .r16 r => [(4#4 ++ op.extractLsb' 0 1 ++ r.num : Byte)]
  | .eb e => 0xFE#8 :: encB op e
  | .ew e => 0xFF#8 :: encW op e

/-- Group 3 with the reg field given (R325). -/
def UnForm.encode (reg : BitVec 3) : UnForm → List Byte
  | .eb e => 0xF6#8 :: encB reg e
  | .ew e => 0xF7#8 :: encW reg e

/-- Group 2 with the reg field given (R324). -/
def ShiftForm.encode (reg : BitVec 3) : ShiftForm → List Byte
  | .eb1 e => 0xD0#8 :: encB reg e
  | .ew1 e => 0xD1#8 :: encW reg e
  | .ebcl e => 0xD2#8 :: encB reg e
  | .ewcl e => 0xD3#8 :: encW reg e

def MovForm.encode : MovForm → List Byte
  | .ebgb e g => 0x88#8 :: encB g.num e
  | .ewgw e g => 0x89#8 :: encW g.num e
  | .gbeb g e => 0x8A#8 :: encB g.num e
  | .gwew g e => 0x8B#8 :: encW g.num e
  | .ewsw e g => 0x8C#8 :: encW g.num e
  | .swew g e => 0x8E#8 :: encW g.num e
  | .alob off => 0xA0#8 :: wordBytes off
  | .axow off => 0xA1#8 :: wordBytes off
  | .obal off => 0xA2#8 :: wordBytes off
  | .owax off => 0xA3#8 :: wordBytes off
  | .r8ib r v => [(0xB#4 ++ 0#1 ++ r.num : Byte), v]
  | .r16iw r v => (0xB#4 ++ 1#1 ++ r.num : Byte) :: wordBytes v
  | .ebib e v => 0xC6#8 :: encB 0#3 e ++ [v]
  | .ewiw e v => 0xC7#8 :: encW 0#3 e ++ wordBytes v

def XchgForm.encode : XchgForm → List Byte
  | .ebgb e g => 0x86#8 :: encB g.num e
  | .ewgw e g => 0x87#8 :: encW g.num e
  | .axr16 r => [(9#4 ++ 0#1 ++ r.num : Byte)]

/-- PUSH: 0x50 + k, 0x06 + 8 s, 0xFF /6 (R710). -/
def StackForm.encodePush : StackForm → List Byte
  | .r16 r => [(5#4 ++ 0#1 ++ r.num : Byte)]
  | .sreg g => [(0#2 ++ g.num ++ 6#3 : Byte)]
  | .ew e => 0xFF#8 :: encW 6#3 e

/-- POP: 0x58 + k, 0x07 + 8 s, 0x8F /0 (R711). -/
def StackForm.encodePop : StackForm → List Byte
  | .r16 r => [(5#4 ++ 1#1 ++ r.num : Byte)]
  | .sreg g => [(0#2 ++ g.num ++ 7#3 : Byte)]
  | .ew e => 0x8F#8 :: encW 0#3 e

def JmpForm.encode : JmpForm → List Byte
  | .short d => [0xEB#8, d]
  | .near d => 0xE9#8 :: wordBytes d
  | .ind e => 0xFF#8 :: encW 4#3 e

def CallForm.encode : CallForm → List Byte
  | .near d => 0xE8#8 :: wordBytes d
  | .ind e => 0xFF#8 :: encW 2#3 e

/-- JMPF and CALLF: the direct opcode, and the reg field of the 0xFF form (R326, R336). -/
def FarForm.encode (op : Byte) (reg : BitVec 3) : FarForm → List Byte
  | .ptr seg off => op :: wordBytes off ++ wordBytes seg
  | .ind m => 0xFF#8 :: m.encode reg

/-- RET and RETF: `op` is the opcode of the form with an immediate, the plain form is one more. -/
def RetForm.encode (op : Byte) : RetForm → List Byte
  | .plain => [op + 1#8]
  | .imm v => op :: wordBytes v

/-- IN and OUT: `op` is the opcode of the byte form with an immediate port (R1001, R1002). -/
def PortForm.encode (op : Byte) : PortForm → List Byte
  | .alib p => [op, p]
  | .axib p => [op + 1#8, p]
  | .aldx => [op + 8#8]
  | .axdx => [op + 9#8]

/-- The bytes of an instruction, prefixes first: `ins.bytes` of R344. -/
def Instr.encode : Instr → List Byte
  | .es j => 0x26#8 :: j.encode
  | .cs j => 0x2E#8 :: j.encode
  | .ss j => 0x36#8 :: j.encode
  | .ds j => 0x3E#8 :: j.encode
  | .rep j => 0xF3#8 :: j.encode
  | .repne j => 0xF2#8 :: j.encode
  | .lock j => 0xF0#8 :: j.encode
  | .invalid _ bytes => bytes
  | .add f => f.encode 0#3
  | .adc f => f.encode 2#3
  | .sub f => f.encode 5#3
  | .sbb f => f.encode 3#3
  | .cmp f => f.encode 7#3
  | .inc f => f.encode 0#3
  | .dec f => f.encode 1#3
  | .neg f => f.encode 3#3
  | .mul f => f.encode 4#3
  | .imul f => f.encode 5#3
  | .div f => f.encode 6#3
  | .idiv f => f.encode 7#3
  | .daa => [0x27#8]
  | .das => [0x2F#8]
  | .aaa => [0x37#8]
  | .aas => [0x3F#8]
  | .aam n => [0xD4#8, n]
  | .aad n => [0xD5#8, n]
  | .cbw => [0x98#8]
  | .cwd => [0x99#8]
  | .and f => f.encode 4#3
  | .or f => f.encode 1#3
  | .xor f => f.encode 6#3
  | .test f => f.encode
  | .not f => f.encode 2#3
  | .rol f => f.encode 0#3
  | .ror f => f.encode 1#3
  | .rcl f => f.encode 2#3
  | .rcr f => f.encode 3#3
  | .shl f => f.encode 4#3
  | .shr f => f.encode 5#3
  | .sar f => f.encode 7#3
  | .mov f => f.encode
  | .xchg f => f.encode
  | .nop => [0x90#8]
  | .lea g m => 0x8D#8 :: m.encode g.num
  | .lds g m => 0xC5#8 :: m.encode g.num
  | .les g m => 0xC4#8 :: m.encode g.num
  | .xlat => [0xD7#8]
  | .lahf => [0x9F#8]
  | .sahf => [0x9E#8]
  | .push f => f.encodePush
  | .pop f => f.encodePop
  | .pushf => [0x9C#8]
  | .popf => [0x9D#8]
  | .movsb => [0xA4#8]
  | .movsw => [0xA5#8]
  | .cmpsb => [0xA6#8]
  | .cmpsw => [0xA7#8]
  | .scasb => [0xAE#8]
  | .scasw => [0xAF#8]
  | .lodsb => [0xAC#8]
  | .lodsw => [0xAD#8]
  | .stosb => [0xAA#8]
  | .stosw => [0xAB#8]
  | .jmp f => f.encode
  | .jmpf f => f.encode 0xEA#8 5#3
  | .jo d => [0x70#8, d]
  | .jno d => [0x71#8, d]
  | .jb d => [0x72#8, d]
  | .jnb d => [0x73#8, d]
  | .jz d => [0x74#8, d]
  | .jnz d => [0x75#8, d]
  | .jbe d => [0x76#8, d]
  | .ja d => [0x77#8, d]
  | .js d => [0x78#8, d]
  | .jns d => [0x79#8, d]
  | .jp d => [0x7A#8, d]
  | .jnp d => [0x7B#8, d]
  | .jl d => [0x7C#8, d]
  | .jnl d => [0x7D#8, d]
  | .jle d => [0x7E#8, d]
  | .jg d => [0x7F#8, d]
  | .jcxz d => [0xE3#8, d]
  | .loop d => [0xE2#8, d]
  | .loopz d => [0xE1#8, d]
  | .loopnz d => [0xE0#8, d]
  | .call f => f.encode
  | .callf f => f.encode 0x9A#8 3#3
  | .ret f => f.encode 0xC2#8
  | .retf f => f.encode 0xCA#8
  | .int n => [0xCD#8, n]
  | .int3 => [0xCC#8]
  | .into => [0xCE#8]
  | .iret => [0xCF#8]
  | .inp f => f.encode 0xE4#8
  | .out f => f.encode 0xE6#8
  | .clc => [0xF8#8]
  | .stc => [0xF9#8]
  | .cmc => [0xF5#8]
  | .cld => [0xFC#8]
  | .std => [0xFD#8]
  | .cli => [0xFA#8]
  | .sti => [0xFB#8]
  | .hlt => [0xF4#8]
  | .wait => [0x9B#8]
  | .esc n reg e => (0x1B#5 ++ n : Byte) :: e.encode id reg

/-- Is the instruction one an encoding within `MAX_INSN_LEN` exists for (R309)? -/
def Instr.encodable (p : Params) (i : Instr) : Bool :=
  i.wf p && decide (i.len ≤ p.maxInsnLen)

/-! ### The opcode table's words -/

/-- The bytes of a table word. The table numbers its rows over windows of 16 bits, the opcode byte in bits
15..8 and the byte after it in bits 7..0 (R380); a later window's bits count on from there. A word of at
most 8 bits is one byte. -/
def tableBytes (nbits w : Nat) : List Byte :=
  if nbits ≤ 8 then [BitVec.ofNat 8 w]
  else (List.range ((nbits + 15) / 16)).flatMap fun j =>
    [BitVec.ofNat 8 (w / 2 ^ (16 * j + 8)), BitVec.ofNat 8 (w / 2 ^ (16 * j))]

/-- The instruction the decoder reads from a table word, every later byte 0, under the default parameters. -/
def decodeTableWord (nbits w : Nat) : Option Instr :=
  let c := streamOf (tableBytes nbits w)
  some ((decode Params.default c).instr c)

end Sys2Proof
end

