-- ==== Sys2Proof/Machine/State.lean ====
section
/-! DEFINITION. The state of the machine (R100), the parameters of its run (R13, R1201), the outputs of a
step (R400), and the state a run starts from (R1203). -/

namespace Sys2Proof.Machine

/-- The nine flags (R120). -/
structure Flags where
  CF : Bool
  PF : Bool
  AF : Bool
  ZF : Bool
  SF : Bool
  TF : Bool
  IF : Bool
  DF : Bool
  OF : Bool
  deriving DecidableEq, Repr

/-- All nine flags clear (R1203). -/
def Flags.clear : Flags :=
  { CF := false, PF := false, AF := false, ZF := false, SF := false, TF := false, IF := false, DF := false,
    OF := false }

/-- Bytes by address, sorted, no zero byte listed: an unlisted address holds 0x00 (preset `zero`, R1203).
The memory and the port array are both kept this way. -/
abbrev Memory := List Host.Cell

/-- What a bus event is (R231). -/
inductive BusKind where
  | fetch
  | store
  deriving DecidableEq, Repr

/-- One bus event: kind, flat address, byte (R231). -/
structure BusEvent where
  kind : BusKind
  addr : Addr
  value : Byte
  deriving DecidableEq, Repr

/-- One output to a port device (R240). -/
structure DeviceOutput where
  port : Word
  value : Byte
  deriving DecidableEq, Repr

/-- The causes of a divide error (R1120). -/
inductive DivCause where
  | divideByZero
  | quotientOverflow
  deriving DecidableEq, Repr

/-- The status of a step with the info it reports (R1100). -/
inductive Status where
  /-- The instruction, or one repeat iteration, completed. -/
  | continued
  /-- HLT at flat address `a` (R1102). -/
  | halted (a : Addr)
  /-- Decoding failed at flat address `a` (R1101). -/
  | decodeError (why : DecodeReason) (a : Addr) (bytes : List Byte)
  /-- A form this profile does not execute, or ESC (R1110). -/
  | unhandled (cls : Class) (a : Addr)
  /-- A divide error with `DIV_ERROR_MODE = report` (R1121). -/
  | divideError (cause : DivCause) (cls : Class) (a : Addr)
  deriving DecidableEq, Repr

/-- Reasons to stop with a fault. There is none: every outcome of a step, the errors of R1100 among them,
has a stated state after it, and no access faults (R1123). Safe: nothing is left out by it. -/
inductive Fault where
  deriving DecidableEq, Repr

/-- Reasons to refuse. No meaning refuses. -/
inductive Refusal where
  /-- Raised by an arm of `exec` whose instruction has no meaning yet; no arm raises it. Safe. -/
  | notModelled (mnemonic : String)
  deriving DecidableEq, Repr

/-- The state: the tuple of R100, the parameters of the run (R1201, fixed by R1206), the outputs of the
last step (R400), and the model's own draw counter (R14). -/
structure State where
  ax : Word
  cx : Word
  dx : Word
  bx : Word
  sp : Word
  bp : Word
  si : Word
  di : Word
  es : Word
  cs : Word
  ss : Word
  ds : Word
  ip : Word
  flags : Flags
  mem : Memory
  ports : Memory
  params : Params
  /-- Output: the last step's status (R1100). Nothing reads it. -/
  status : Status
  /-- Output: the last step's bus events in order (R231). Nothing reads it. -/
  events : List BusEvent
  /-- Output: the last step's device outputs in order (R240). Nothing reads it. -/
  devOut : List DeviceOutput
  /-- The model's own: the number of draws taken, so that each takes a fresh free value (R14). -/
  draws : Nat
  deriving DecidableEq, Repr

/-- Preset `zero` with nothing loaded (R1203). -/
def State.presetZero : State :=
  { ax := 0, cx := 0, dx := 0, bx := 0, sp := 0, bp := 0, si := 0, di := 0,
    es := 0, cs := 0, ss := 0, ds := 0, ip := 0,
    flags := Flags.clear, mem := [], ports := [], params := Params.default,
    status := .continued, events := [], devOut := [], draws := 0 }

/-- Preset `hw8086` (R1203). That preset leaves the general registers and the memory open: they are arguments. -/
def State.presetHw8086 (ax cx dx bx sp bp si di : Word) (mem : Memory) : State :=
  { State.presetZero with
    ax := ax, cx := cx, dx := dx, bx := bx, sp := sp, bp := bp, si := si, di := di,
    cs := 0xFFFF#16, mem := mem, params := Params.hw8086 }

/-- The state a run of this model starts from: the launch record "preset `zero`, except EXEC_PROFILE =
full" (R1201, R1203). DESIGN CHOICE, notes/assumptions/1.md. -/
def State.reset : State :=
  { State.presetZero with params := { Params.default with execProfile := .full } }

end Sys2Proof.Machine
end

