-- ==== Sys2Proof/Machine/Flags.lean ====
section
/-! DEFINITION. The packed flags word (R121 to R123), every flag computation (R450 to R455) and the
sixteen conditions (R460). -/

namespace Sys2Proof.Machine

/-! ### The packed word -/

/-- A flag in bit `k` of a word. -/
def flagBit (b : Bool) (k : Nat) : Word := (BitVec.ofBool b).zeroExtend 16 <<< k

/-- `pack(F)` with the fixed ones of the parameter (R122). -/
def Flags.pack (ones : Word) (f : Flags) : Word :=
  ones ||| flagBit f.CF 0 ||| flagBit f.PF 2 ||| flagBit f.AF 4 ||| flagBit f.ZF 6 ||| flagBit f.SF 7 |||
    flagBit f.TF 8 ||| flagBit f.IF 9 ||| flagBit f.DF 10 ||| flagBit f.OF 11

/-- `unpack(v)`: the named bits, the reserved ones ignored (R123). -/
def Flags.unpack (v : Word) : Flags :=
  { CF := v.getLsbD 0, PF := v.getLsbD 2, AF := v.getLsbD 4, ZF := v.getLsbD 6, SF := v.getLsbD 7,
    TF := v.getLsbD 8, IF := v.getLsbD 9, DF := v.getLsbD 10, OF := v.getLsbD 11 }

/-- The status flags (R120), by name: what a draw can go into. -/
inductive StatusFlag where
  | CF | PF | AF | ZF | SF | OF
  deriving DecidableEq, Repr

/-- Write one status flag. -/
def Flags.put (f : Flags) (n : StatusFlag) (b : Bool) : Flags :=
  match n with
  | .CF => { f with CF := b }
  | .PF => { f with PF := b }
  | .AF => { f with AF := b }
  | .ZF => { f with ZF := b }
  | .SF => { f with SF := b }
  | .OF => { f with OF := b }

/-! ### Flag functions -/

/-- Even parity of the low byte (R450). -/
def parity {w : Nat} (r : BitVec w) : Bool :=
  (List.range 8).countP (fun k => r.getLsbD k) % 2 == 0

/-- Sign, zero and parity of a result (R451). -/
def szp {w : Nat} (r : BitVec w) (f : Flags) : Flags :=
  { f with SF := r.msb, ZF := decide (r = 0#w), PF := parity r }

/-- `a + b + c` and its flags (R452). -/
def addFlags {w : Nat} (a b : BitVec w) (c : Bool) (f : Flags) : BitVec w × Flags :=
  let total := a.toNat + b.toNat + c.toNat
  let r := BitVec.ofNat w total
  (r, szp r { f with
        CF := decide (2 ^ w - 1 < total)
        AF := (a ^^^ b ^^^ r).getLsbD 4
        OF := a.msb == b.msb && r.msb != a.msb })

/-- `a - b - c` and its flags (R453). -/
def subFlags {w : Nat} (a b : BitVec w) (c : Bool) (f : Flags) : BitVec w × Flags :=
  let total : Int := (a.toNat : Int) - b.toNat - c.toNat
  let r := BitVec.ofInt w total
  (r, szp r { f with
        CF := decide (total < 0)
        AF := (a ^^^ b ^^^ r).getLsbD 4
        OF := a.msb != b.msb && r.msb != a.msb })

/-- The flags of a logic result that it fixes; AF is a draw, taken by the caller (R454). -/
def logicFlags {w : Nat} (r : BitVec w) (f : Flags) : Flags :=
  szp r { f with CF := false, OF := false }

/-- `a + 1` with CF kept (R455). -/
def incFlags {w : Nat} (a : BitVec w) (f : Flags) : BitVec w × Flags :=
  let x := addFlags a 1 false f
  (x.1, { x.2 with CF := f.CF })

/-- `a - 1` with CF kept (R455). -/
def decFlags {w : Nat} (a : BitVec w) (f : Flags) : BitVec w × Flags :=
  let x := subFlags a 1 false f
  (x.1, { x.2 with CF := f.CF })

/-! ### Conditions (R460) -/

def condO (f : Flags) : Bool := f.OF
def condNO (f : Flags) : Bool := !f.OF
def condB (f : Flags) : Bool := f.CF
def condNB (f : Flags) : Bool := !f.CF
def condZ (f : Flags) : Bool := f.ZF
def condNZ (f : Flags) : Bool := !f.ZF
def condBE (f : Flags) : Bool := f.CF || f.ZF
def condA (f : Flags) : Bool := !f.CF && !f.ZF
def condS (f : Flags) : Bool := f.SF
def condNS (f : Flags) : Bool := !f.SF
def condP (f : Flags) : Bool := f.PF
def condNP (f : Flags) : Bool := !f.PF
def condL (f : Flags) : Bool := f.SF != f.OF
def condNL (f : Flags) : Bool := f.SF == f.OF
def condLE (f : Flags) : Bool := f.ZF || f.SF != f.OF
def condG (f : Flags) : Bool := !f.ZF && f.SF == f.OF

end Sys2Proof.Machine
end

