-- ==== Sys2Proof/Machine/Ops.lean ====
section
/-! DEFINITION. The named operations over the state: registers, memory and its bus events, ports, draws,
the stack, interrupt entry and return, the divide error, and the frame every instruction runs in (the ip
advance and the profile gate). -/

namespace Sys2Proof.Machine

/-! ### Bytes by address -/

/-- The byte at an address; an unlisted one is 0x00. -/
def Cells.read : Memory → Nat → Byte
  | [], _ => 0#8
  | (a, v) :: m, k => if a = k then v else Cells.read m k

/-- Insert before the first higher address. -/
def Cells.insert (k : Nat) (v : Byte) : Memory → Memory
  | [] => [(k, v)]
  | (a, b) :: m => if k < a then (k, v) :: (a, b) :: m else (a, b) :: Cells.insert k v m

/-- Drop every entry of an address. -/
def Cells.erase (k : Nat) : Memory → Memory
  | [] => []
  | (a, b) :: m => if a = k then Cells.erase k m else (a, b) :: Cells.erase k m

/-- Write a byte, keeping the canonical form: a 0x00 is not listed. -/
def Cells.write (m : Memory) (k : Nat) (v : Byte) : Memory :=
  if v = 0#8 then Cells.erase k m else Cells.insert k v (Cells.erase k m)

/-- Every listed address is at least `lo`, addresses rise, and no listed byte is 0x00. -/
def Cells.canonFrom : Nat → Memory → Bool
  | _, [] => true
  | lo, (a, v) :: m => decide (lo ≤ a) && decide (v ≠ 0#8) && Cells.canonFrom (a + 1) m

/-- The canonical form: addresses strictly rising, no entry equal to what an unlisted address reads as. -/
def Memory.wf (m : Memory) : Bool := Cells.canonFrom 0 m

/-- Every listed address lies below `n`. -/
def Memory.below (n : Nat) (m : Memory) : Bool := m.all fun c => decide (c.1 < n)

/-! ### Flat addresses (R201, R211) -/

/-- `flat(seg, off)`, modulo 2^20 (R201). -/
def flat (seg off : Word) : Addr := BitVec.ofNat 20 (seg.toNat * 16 + off.toNat)

/-- Where the high byte of a word lies (R211). -/
def second (w : WordWrap) (seg off : Word) : Addr :=
  match w with
  | .flat => flat seg off + 1
  | .segment => flat seg (off + 1)

/-! ### Memory with its bus events (R205 to R211) -/

/-- The byte at a flat address: 0x00 at or above MEM_SIZE (R205, R206). -/
def State.memByte (s : State) (a : Addr) : Byte :=
  if a.toNat < s.params.memSize then Cells.read s.mem a.toNat else 0#8

/-- Append a bus event (R231). -/
def State.record (s : State) (k : BusKind) (a : Addr) (v : Byte) : State :=
  { s with events := s.events ++ [⟨k, a, v⟩] }

/-- `MemRead(a, 1)` (R206). -/
def State.memRead (s : State) (a : Addr) : Byte × State :=
  (s.memByte a, s.record .fetch a (s.memByte a))

/-- The array update of a store, dropped at or above MEM_SIZE (R205, R207). -/
def State.poke (s : State) (a : Addr) (v : Byte) : State :=
  { s with mem := if a.toNat < s.params.memSize then Cells.write s.mem a.toNat v else s.mem }

/-- `MemWrite(a, 1, v)` (R207). -/
def State.memWrite (s : State) (a : Addr) (v : Byte) : State :=
  (s.poke a v).record .store a v

/-- `SegRead(seg, off, 8)` (R211). -/
def State.segRead8 (s : State) (seg off : Word) : Byte × State := s.memRead (flat seg off)

/-- `SegRead(seg, off, 16)`: low byte, then high byte (R211). -/
def State.segRead16 (s : State) (seg off : Word) : Word × State :=
  let lo := s.memRead (flat seg off)
  let hi := lo.2.memRead (second s.params.wordWrap seg off)
  (wordOf lo.1 hi.1, hi.2)

/-- `SegWrite(seg, off, 8, v)` (R211). -/
def State.segWrite8 (s : State) (seg off : Word) (v : Byte) : State := s.memWrite (flat seg off) v

/-- `SegWrite(seg, off, 16, v)`: low byte, then high byte (R211). -/
def State.segWrite16 (s : State) (seg off : Word) (v : Word) : State :=
  (s.memWrite (flat seg off) (loByte v)).memWrite (second s.params.wordWrap seg off) (hiByte v)

/-! ### Registers (R101, R102, R110) -/

/-- `r16[k]`. -/
def State.getR16 (s : State) : Reg16 → Word
  | .ax => s.ax
  | .cx => s.cx
  | .dx => s.dx
  | .bx => s.bx
  | .sp => s.sp
  | .bp => s.bp
  | .si => s.si
  | .di => s.di

/-- `r16[k] <- v`. -/
def State.setR16 (s : State) (r : Reg16) (v : Word) : State :=
  match r with
  | .ax => { s with ax := v }
  | .cx => { s with cx := v }
  | .dx => { s with dx := v }
  | .bx => { s with bx := v }
  | .sp => { s with sp := v }
  | .bp => { s with bp := v }
  | .si => { s with si := v }
  | .di => { s with di := v }

/-- The word register a byte register is half of: word register k mod 4 (R101). -/
def Reg8.whole : Reg8 → Reg16
  | .al => .ax
  | .cl => .cx
  | .dl => .dx
  | .bl => .bx
  | .ah => .ax
  | .ch => .cx
  | .dh => .dx
  | .bh => .bx

/-- Is it the high half: bit 2 of k (R101)? -/
def Reg8.isHigh : Reg8 → Bool
  | .al => false
  | .cl => false
  | .dl => false
  | .bl => false
  | .ah => true
  | .ch => true
  | .dh => true
  | .bh => true

/-- `r8[k]` (R101). -/
def State.getR8 (s : State) (r : Reg8) : Byte :=
  if Reg8.isHigh r then hiByte (s.getR16 (Reg8.whole r)) else loByte (s.getR16 (Reg8.whole r))

/-- `r8[k] <- v`: the other half stays (R101). -/
def State.setR8 (s : State) (r : Reg8) (v : Byte) : State :=
  let old := s.getR16 (Reg8.whole r)
  s.setR16 (Reg8.whole r) (if Reg8.isHigh r then wordOf (loByte old) v else wordOf v (hiByte old))

/-- `sreg[s]` (R110). -/
def State.getSReg (s : State) : SReg → Word
  | .es => s.es
  | .cs => s.cs
  | .ss => s.ss
  | .ds => s.ds

/-- `sreg[s] <- v` (R110). -/
def State.setSReg (s : State) (g : SReg) (v : Word) : State :=
  match g with
  | .es => { s with es := v }
  | .cs => { s with cs := v }
  | .ss => { s with ss := v }
  | .ds => { s with ds := v }

/-- Write ip. -/
def State.setIp (s : State) (v : Word) : State := { s with ip := v }

/-- Write the flags. -/
def State.setFlags (s : State) (f : Flags) : State := { s with flags := f }

/-- Write the status output. -/
def State.setStatus (s : State) (x : Status) : State := { s with status := x }

/-- `pack(F)` (R122). -/
def State.packed (s : State) : Word := s.flags.pack s.params.flagsFixedOnes

/-! ### Draws (R14, R456) -/

/-- Put a fresh draw into one status flag. -/
def State.drawFlag (s : State) (n : StatusFlag) : State :=
  { s with flags := s.flags.put n (Config.freeBit s.draws), draws := s.draws + 1 }

/-- Put a fresh draw into each of these flags. -/
def State.drawFlags (s : State) (ns : List StatusFlag) : State := ns.foldl State.drawFlag s

/-- A fresh free byte. -/
def State.drawByte (s : State) : Byte × State :=
  (Config.freeByte s.draws, { s with draws := s.draws + 1 })

/-! ### Ports (R240 to R243) -/

/-- `PortIn(p, 8)`: a device answers with a draw, else the port array is read (R241). -/
def State.portIn8 (s : State) (p : Word) : Byte × State :=
  if p ∈ s.params.portDevices then s.drawByte else (Cells.read s.ports p.toNat, s)

/-- `PortOut(p, 8, v)`: the port array always takes the value, and a device sees it (R240). -/
def State.portOut8 (s : State) (p : Word) (v : Byte) : State :=
  { s with
    ports := Cells.write s.ports p.toNat v
    devOut := if p ∈ s.params.portDevices then s.devOut ++ [⟨p, v⟩] else s.devOut }

/-- `PortIn(p, 16)` (R242). -/
def State.portIn16 (s : State) (p : Word) : Word × State :=
  let lo := s.portIn8 p
  let hi := lo.2.portIn8 (p + 1)
  (wordOf lo.1 hi.1, hi.2)

/-- `PortOut(p, 16, v)` (R242). -/
def State.portOut16 (s : State) (p : Word) (v : Word) : State :=
  (s.portOut8 p (loByte v)).portOut8 (p + 1) (hiByte v)

/-! ### Stack (R430, R431) -/

/-- `Push16(v)` (R430). -/
def State.push16 (s : State) (v : Word) : State :=
  let t := s.setR16 .sp (s.sp - 2)
  t.segWrite16 t.ss t.sp v

/-- `Pop16()` (R431). -/
def State.pop16 (s : State) : Word × State :=
  let x := s.segRead16 s.ss s.sp
  (x.1, x.2.setR16 .sp (x.2.sp + 2))

/-! ### Interrupts (R1131, R1133) and the divide error (R1120) -/

/-- `interrupt_entry(n)`: push flags, clear IF and TF, push CS, push ip, load the vector (R1131). -/
def State.interruptEntry (s : State) (n : Byte) : State :=
  let a := s.push16 s.packed
  let b := a.setFlags { a.flags with IF := false, TF := false }
  let c := (b.push16 b.cs)
  let d := (c.push16 c.ip)
  let off := BitVec.ofNat 16 (4 * n.toNat)
  let newIp := d.segRead16 0 off
  let newCs := newIp.2.segRead16 0 (off + 2)
  (newCs.2.setIp newIp.1).setSReg .cs newCs.1

/-- IRET's effect: pop ip, CS and the flags (R921, R1133). -/
def State.interruptReturn (s : State) : State :=
  let newIp := s.pop16
  let newCs := (newIp.2.setIp newIp.1).pop16
  let newFlags := (newCs.2.setSReg .cs newCs.1).pop16
  newFlags.2.setFlags (Flags.unpack newFlags.1)

/-! ### The decoded instruction's transient part and the frame of every instruction -/

/-- What an instruction's rule reads off the decoded instruction besides its operands (R340): the
override, the repeat mode, the size, the class, and the flat address of its first byte. -/
structure Ins where
  seg : Option SReg
  rep : Option Rep
  size : Nat
  cls : Class
  start : Addr
  deriving DecidableEq, Repr

/-- The segment override of a prefix list, outermost first: the last one wins (R306). -/
def segOverride (ps : List Prefix) : Option SReg :=
  ps.foldl (fun o q =>
    match q with
    | .es => some .es
    | .cs => some .cs
    | .ss => some .ss
    | .ds => some .ds
    | .rep => o
    | .repne => o
    | .lock => o) none

/-- The repeat mode of a prefix list, outermost first: the last one wins (R305, R306). -/
def repeatMode (ps : List Prefix) : Option Rep :=
  ps.foldl (fun o q =>
    match q with
    | .rep => some .repE
    | .repne => some .repNe
    | .es => o
    | .cs => o
    | .ss => o
    | .ds => o
    | .lock => o) none

/-- The decoded instruction `i` under the prefixes `ps`, standing at CS:ip of `s` (R340, R402). -/
def insAt (ps : List Prefix) (i : Instr) (s : State) : Ins :=
  { seg := segOverride ps
    rep := repeatMode ps
    size := ps.length + i.len
    cls := i.cls
    start := flat s.cs s.ip }

/-- The profile gate's answer: does the form execute? (R406) -/
def gate (p : Params) (i : Instr) : Bool :=
  match i.cls with
  | .esc => false
  | _ => decide (p.execProfile = .full) || decide (i.tier = .source)

/-- Step 3: ip past the instruction, modulo 2^16 (R403). -/
def State.advance (s : State) (size : Nat) : State := s.setIp (s.ip + BitVec.ofNat 16 size)

/-- Steps 3 and 4 for the instruction `i` under the prefixes `ps`: advance ip, test the gate, then run
the rule `body`; a rule that sets no other status ends the step with `continued` (R401, R406, R1110). -/
def complete (ps : List Prefix) (i : Instr) (body : Ins → State → State) (s : State) :
    Host.Outcome State Fault Refusal :=
  let ins := insAt ps i s
  let t := s.advance ins.size
  if gate s.params i then .next (body ins (t.setStatus .continued))
  else .next (t.setStatus (.unhandled ins.cls ins.start))

/-- `raise DivideError(cause)`: reported as a status, or taken as interrupt 0 (R1121, R1122). -/
def State.divideError (s : State) (cause : DivCause) (ins : Ins) : State :=
  match s.params.divErrorMode with
  | .report => s.setStatus (.divideError cause ins.cls ins.start)
  | .vector => s.interruptEntry 0#8

/-- A decode error: only the status is written, ip included nothing else changes (R1101). -/
def State.decodeFailure (s : State) (why : DecodeReason) (bytes : List Byte) : State :=
  s.setStatus (.decodeError why (flat s.cs s.ip) bytes)

/-- Place a byte image at flat address `a` before a run, or a part of one (R1202): no bus events. -/
def State.loadImage (s : State) (a : Addr) : List Byte → State
  | [] => s
  | b :: bs => (s.poke a b).loadImage (a + 1) bs

end Sys2Proof.Machine
end

