-- ==== Sys2Proof/Machine/Operands.lean ====
section
/-! DEFINITION. Every operand form: effective address (R420), segment (R421), the locations operands
name at the start of step 4 (R422), and reading and writing them (R423, R424). -/

namespace Sys2Proof.Machine

/-- The registers a base/index combination sums (R311, R420). -/
def State.baseSum (s : State) : Base → Word
  | .bxsi => s.bx + s.si
  | .bxdi => s.bx + s.di
  | .bpsi => s.bp + s.si
  | .bpdi => s.bp + s.di
  | .si => s.si
  | .di => s.di
  | .bp => s.bp
  | .bx => s.bx

/-- `EA(op)`, modulo 2^16 (R420). -/
def State.ea (s : State) : MemOp → Word
  | .indirect b => s.baseSum b
  | .disp8 b d => s.baseSum b + sext16 d
  | .disp16 b d => s.baseSum b + d
  | .direct off => off

/-- The BP-based combinations: rm in 2, 3, 6 (R311, R421). -/
def Base.bpBased : Base → Bool
  | .bxsi => false
  | .bxdi => false
  | .bpsi => true
  | .bpdi => true
  | .si => false
  | .di => false
  | .bp => true
  | .bx => false

/-- The segment of `BP_DEFAULT_SEGMENT` (R421). -/
def bpSegment (p : Params) : SReg :=
  match p.bpDefaultSegment with
  | .ss => .ss
  | .ds => .ds

/-- The default segment of a memory operand (R421). -/
def defaultSegment (p : Params) : MemOp → SReg
  | .indirect b => if Base.bpBased b then bpSegment p else .ds
  | .disp8 b _ => if Base.bpBased b then bpSegment p else .ds
  | .disp16 b _ => if Base.bpBased b then bpSegment p else .ds
  | .direct _ => .ds

/-- `SegOf(op)` (R421). -/
def segOf (p : Params) (ins : Ins) (m : MemOp) : SReg := ins.seg.getD (defaultSegment p m)

/-- The value of the segment register a memory operand uses. -/
def State.opSeg (s : State) (ins : Ins) (m : MemOp) : Word := s.getSReg (segOf s.params ins m)

/-- A resolved operand of width 8 or 16: a register, a constant, or a segment value and offset (R422, R423). -/
inductive Loc : Nat → Type where
  | r8 (r : Reg8) : Loc 8
  | r16 (r : Reg16) : Loc 16
  | sreg (g : SReg) : Loc 16
  | imm8 (v : Byte) : Loc 8
  | imm16 (v : Word) : Loc 16
  | mem8 (seg off : Word) : Loc 8
  | mem16 (seg off : Word) : Loc 16
  deriving Repr

/-- `ReadOp(op)` (R423). -/
def State.read (s : State) : {w : Nat} → Loc w → BitVec w × State
  | _, .r8 r => (s.getR8 r, s)
  | _, .r16 r => (s.getR16 r, s)
  | _, .sreg g => (s.getSReg g, s)
  | _, .imm8 v => (v, s)
  | _, .imm16 v => (v, s)
  | _, .mem8 seg off => s.segRead8 seg off
  | _, .mem16 seg off => s.segRead16 seg off

/-- `WriteOp(op, v)` (R424). A constant is never a destination: writing it would change nothing. -/
def State.write (s : State) : {w : Nat} → Loc w → BitVec w → State
  | _, .r8 r, v => s.setR8 r v
  | _, .r16 r, v => s.setR16 r v
  | _, .sreg g, v => s.setSReg g v
  | _, .imm8 _, _ => s
  | _, .imm16 _, _ => s
  | _, .mem8 seg off, v => s.segWrite8 seg off v
  | _, .mem16 seg off, v => s.segWrite16 seg off v

/-- The byte location of a memory operand (R421, R422). -/
def memLoc8 (ins : Ins) (s : State) (m : MemOp) : Loc 8 := .mem8 (s.opSeg ins m) (s.ea m)

/-- The word location of a memory operand (R421, R422). -/
def memLoc16 (ins : Ins) (s : State) (m : MemOp) : Loc 16 := .mem16 (s.opSeg ins m) (s.ea m)

/-- `Eb` (R330). -/
def ebLoc (ins : Ins) (s : State) : Rm Reg8 → Loc 8
  | .reg r => .r8 r
  | .mem m => memLoc8 ins s m

/-- `Ew` (R330). -/
def ewLoc (ins : Ins) (s : State) : Rm Reg16 → Loc 16
  | .reg r => .r16 r
  | .mem m => memLoc16 ins s m

/-- Two operands of one width, destination first (R338, R425). -/
structure Pair where
  w : Nat
  dst : Loc w
  src : Loc w

/-- One operand with its width. -/
structure Single where
  w : Nat
  loc : Loc w

/-- op1 and op2 of the ALU forms (R440, R323). -/
def aluPair (ins : Ins) (s : State) : AluForm → Pair
  | .ebgb e g => ⟨8, ebLoc ins s e, .r8 g⟩
  | .ewgw e g => ⟨16, ewLoc ins s e, .r16 g⟩
  | .gbeb g e => ⟨8, .r8 g, ebLoc ins s e⟩
  | .gwew g e => ⟨16, .r16 g, ewLoc ins s e⟩
  | .alib v => ⟨8, .r8 .al, .imm8 v⟩
  | .axiw v => ⟨16, .r16 .ax, .imm16 v⟩
  | .ebib e v => ⟨8, ebLoc ins s e, .imm8 v⟩
  | .ewiw e v => ⟨16, ewLoc ins s e, .imm16 v⟩
  | .ebibAlias e v => ⟨8, ebLoc ins s e, .imm8 v⟩
  | .ewibs e v => ⟨16, ewLoc ins s e, .imm16 (sext16 v)⟩

/-- op1 and op2 of TEST (R604). -/
def testPair (ins : Ins) (s : State) : TestForm → Pair
  | .ebgb e g => ⟨8, ebLoc ins s e, .r8 g⟩
  | .ewgw e g => ⟨16, ewLoc ins s e, .r16 g⟩
  | .alib v => ⟨8, .r8 .al, .imm8 v⟩
  | .axiw v => ⟨16, .r16 .ax, .imm16 v⟩
  | .ebib e v => ⟨8, ebLoc ins s e, .imm8 v⟩
  | .ewiw e v => ⟨16, ewLoc ins s e, .imm16 v⟩

/-- op1 and op2 of MOV (R701); the offsets of 0xA0 to 0xA3 are direct operands (R335). -/
def movPair (ins : Ins) (s : State) : MovForm → Pair
  | .ebgb e g => ⟨8, ebLoc ins s e, .r8 g⟩
  | .ewgw e g => ⟨16, ewLoc ins s e, .r16 g⟩
  | .gbeb g e => ⟨8, .r8 g, ebLoc ins s e⟩
  | .gwew g e => ⟨16, .r16 g, ewLoc ins s e⟩
  | .ewsw e g => ⟨16, ewLoc ins s e, .sreg g⟩
  | .swew g e => ⟨16, .sreg g, ewLoc ins s e⟩
  | .alob off => ⟨8, .r8 .al, memLoc8 ins s (.direct off)⟩
  | .axow off => ⟨16, .r16 .ax, memLoc16 ins s (.direct off)⟩
  | .obal off => ⟨8, memLoc8 ins s (.direct off), .r8 .al⟩
  | .owax off => ⟨16, memLoc16 ins s (.direct off), .r16 .ax⟩
  | .r8ib r v => ⟨8, .r8 r, .imm8 v⟩
  | .r16iw r v => ⟨16, .r16 r, .imm16 v⟩
  | .ebib e v => ⟨8, ebLoc ins s e, .imm8 v⟩
  | .ewiw e v => ⟨16, ewLoc ins s e, .imm16 v⟩

/-- op1 and op2 of XCHG (R702). -/
def xchgPair (ins : Ins) (s : State) : XchgForm → Pair
  | .ebgb e g => ⟨8, ebLoc ins s e, .r8 g⟩
  | .ewgw e g => ⟨16, ewLoc ins s e, .r16 g⟩
  | .axr16 r => ⟨16, .r16 .ax, .r16 r⟩

/-- op1 of INC and DEC (R506, R507). -/
def incOperand (ins : Ins) (s : State) : IncForm → Single
  | .r16 r => ⟨16, .r16 r⟩
  | .eb e => ⟨8, ebLoc ins s e⟩
  | .ew e => ⟨16, ewLoc ins s e⟩

/-- op1 of a one-operand group 3 instruction (R325). -/
def unOperand (ins : Ins) (s : State) : UnForm → Single
  | .eb e => ⟨8, ebLoc ins s e⟩
  | .ew e => ⟨16, ewLoc ins s e⟩

/-- op1 of a shift or rotate (R324). -/
def shiftOperand (ins : Ins) (s : State) : ShiftForm → Single
  | .eb1 e => ⟨8, ebLoc ins s e⟩
  | .ew1 e => ⟨16, ewLoc ins s e⟩
  | .ebcl e => ⟨8, ebLoc ins s e⟩
  | .ewcl e => ⟨16, ewLoc ins s e⟩

/-- The count of a shift or rotate: 1, or CL, not masked (R606). -/
def shiftCount (s : State) : ShiftForm → Byte
  | .eb1 _ => 1#8
  | .ew1 _ => 1#8
  | .ebcl _ => s.getR8 .cl
  | .ewcl _ => s.getR8 .cl

/-- op1 of PUSH and POP (R710, R711). -/
def stackLoc (ins : Ins) (s : State) : StackForm → Loc 16
  | .r16 r => .r16 r
  | .sreg g => .sreg g
  | .ew e => ewLoc ins s e

/-- A far pointer in memory: the offset word, then the segment word at offset + 2 (R215). -/
def State.readFar (s : State) (ins : Ins) (m : MemOp) : (Word × Word) × State :=
  let seg := s.opSeg ins m
  let off := s.ea m
  let lo := s.segRead16 seg off
  let hi := lo.2.segRead16 seg (off + 2)
  ((lo.1, hi.1), hi.2)

/-- The segment value of the string source: the override, or DS (R423, R800). -/
def State.sourceSeg (s : State) (ins : Ins) : Word := s.getSReg (ins.seg.getD .ds)

end Sys2Proof.Machine
end

