-- ==== Sys2Proof/Machine/Arith.lean ====
section
/-! DEFINITION. The arithmetic instructions (R501 to R520). -/

namespace Sys2Proof.Machine

/-! ### Shared shapes -/

/-- The common ALU pattern: read op1, read op2, compute, store (R441). -/
def aluStore (op : ∀ w : Nat, BitVec w → BitVec w → Flags → BitVec w × Flags) (f : AluForm) (ins : Ins)
    (s : State) : State :=
  let p := aluPair ins s f
  let a := s.read p.dst
  let b := a.2.read p.src
  let r := op p.w a.1 b.1 b.2.flags
  (b.2.setFlags r.2).write p.dst r.1

/-- The common ALU pattern without the store (R441). -/
def aluCompare (op : ∀ w : Nat, BitVec w → BitVec w → Flags → BitVec w × Flags) (f : AluForm) (ins : Ins)
    (s : State) : State :=
  let p := aluPair ins s f
  let a := s.read p.dst
  let b := a.2.read p.src
  b.2.setFlags (op p.w a.1 b.1 b.2.flags).2

/-- Read op1, compute, store: INC, DEC (R506, R507) and NEG (R508). -/
def unaryStore (op : ∀ w : Nat, BitVec w → Flags → BitVec w × Flags) (o : Single) (s : State) : State :=
  let a := s.read o.loc
  let r := op o.w a.1 a.2.flags
  (a.2.setFlags r.2).write o.loc r.1

/-! ### Addition and subtraction -/

/-- R501. -/
def addBody (f : AluForm) (ins : Ins) (s : State) : State :=
  aluStore (fun _ a b x => addFlags a b false x) f ins s

def execAdd (f : AluForm) (s : State) : Host.Outcome State Fault Refusal :=
  complete [] (.add f) (addBody f) s

/-- R502. -/
def adcBody (f : AluForm) (ins : Ins) (s : State) : State :=
  aluStore (fun _ a b x => addFlags a b x.CF x) f ins s

def execAdc (f : AluForm) (s : State) : Host.Outcome State Fault Refusal :=
  complete [] (.adc f) (adcBody f) s

/-- R503. -/
def subBody (f : AluForm) (ins : Ins) (s : State) : State :=
  aluStore (fun _ a b x => subFlags a b false x) f ins s

def execSub (f : AluForm) (s : State) : Host.Outcome State Fault Refusal :=
  complete [] (.sub f) (subBody f) s

/-- R504. -/
def sbbBody (f : AluForm) (ins : Ins) (s : State) : State :=
  aluStore (fun _ a b x => subFlags a b x.CF x) f ins s

def execSbb (f : AluForm) (s : State) : Host.Outcome State Fault Refusal :=
  complete [] (.sbb f) (sbbBody f) s

/-- R505. -/
def cmpBody (f : AluForm) (ins : Ins) (s : State) : State :=
  aluCompare (fun _ a b x => subFlags a b false x) f ins s

def execCmp (f : AluForm) (s : State) : Host.Outcome State Fault Refusal :=
  complete [] (.cmp f) (cmpBody f) s

/-- R506. -/
def incBody (f : IncForm) (ins : Ins) (s : State) : State :=
  unaryStore (fun _ a x => incFlags a x) (incOperand ins s f) s

def execInc (f : IncForm) (s : State) : Host.Outcome State Fault Refusal :=
  complete [] (.inc f) (incBody f) s

/-- R507. -/
def decBody (f : IncForm) (ins : Ins) (s : State) : State :=
  unaryStore (fun _ a x => decFlags a x) (incOperand ins s f) s

def execDec (f : IncForm) (s : State) : Host.Outcome State Fault Refusal :=
  complete [] (.dec f) (decBody f) s

/-- R508. -/
def negBody (f : UnForm) (ins : Ins) (s : State) : State :=
  unaryStore (fun w a x => subFlags (0#w) a false x) (unOperand ins s f) s

def execNeg (f : UnForm) (s : State) : Host.Outcome State Fault Refusal :=
  complete [] (.neg f) (negBody f) s

/-! ### Multiplication -/

/-- The flags of a product: CF and OF tell whether it fits the low half, the others are draws (R509, R510). -/
def State.productFlags (s : State) (high : Bool) : State :=
  (s.setFlags { s.flags with CF := high, OF := high }).drawFlags [.SF, .ZF, .AF, .PF]

/-- R509. -/
def mulBody (f : UnForm) (ins : Ins) (s : State) : State :=
  match f with
  | .eb e =>
    let b := s.read (ebLoc ins s e)
    let p := (b.2.getR8 .al).toNat * b.1.toNat
    (b.2.setR16 .ax (BitVec.ofNat 16 p)).productFlags (decide (p / 2 ^ 8 ≠ 0))
  | .ew e =>
    let b := s.read (ewLoc ins s e)
    let p := b.2.ax.toNat * b.1.toNat
    ((b.2.setR16 .ax (BitVec.ofNat 16 p)).setR16 .dx (BitVec.ofNat 16 (p / 2 ^ 16))).productFlags
      (decide (p / 2 ^ 16 ≠ 0))

def execMul (f : UnForm) (s : State) : Host.Outcome State Fault Refusal :=
  complete [] (.mul f) (mulBody f) s

/-- Does a signed value fit in `w` bits? -/
def fitsSigned (w : Nat) (p : Int) : Bool := decide (-(2 ^ (w - 1) : Int) ≤ p) && decide (p ≤ 2 ^ (w - 1) - 1)

/-- R510. -/
def imulBody (f : UnForm) (ins : Ins) (s : State) : State :=
  match f with
  | .eb e =>
    let b := s.read (ebLoc ins s e)
    let p := (b.2.getR8 .al).toInt * b.1.toInt
    (b.2.setR16 .ax (BitVec.ofInt 16 p)).productFlags (!fitsSigned 8 p)
  | .ew e =>
    let b := s.read (ewLoc ins s e)
    let p := b.2.ax.toInt * b.1.toInt
    let q := BitVec.ofInt 32 p
    ((b.2.setR16 .ax (q.extractLsb' 0 16)).setR16 .dx (q.extractLsb' 16 16)).productFlags (!fitsSigned 16 p)

def execImul (f : UnForm) (s : State) : Host.Outcome State Fault Refusal :=
  complete [] (.imul f) (imulBody f) s

/-! ### Division -/

/-- All six status flags become draws (R511, R512). -/
def State.drawStatus (s : State) : State := s.drawFlags [.CF, .PF, .AF, .ZF, .SF, .OF]

/-- The unsigned quotient and remainder of `n` by `d`, or the error's cause (R511, R1120). -/
def divide (n d qmax : Nat) : Except DivCause (Nat × Nat) :=
  if d = 0 then .error .divideByZero
  else if qmax < n / d then .error .quotientOverflow
  else .ok (n / d, n % d)

/-- The least quotient IDIV returns (R512). -/
def idivLow (p : Params) (w : Nat) : Int := if p.idiv8086Range then -(2 ^ (w - 1)) + 1 else -(2 ^ (w - 1))

/-- The signed quotient, truncated toward zero, and the remainder of `n` by `d`, or the error's cause (R512, R1120). -/
def divideSigned (lo hi n d : Int) : Except DivCause (Int × Int) :=
  if d = 0 then .error .divideByZero
  else if n.tdiv d < lo ∨ hi < n.tdiv d then .error .quotientOverflow
  else .ok (n.tdiv d, n - n.tdiv d * d)

/-- R511. -/
def divBody (f : UnForm) (ins : Ins) (s : State) : State :=
  match f with
  | .eb e =>
    let b := s.read (ebLoc ins s e)
    match divide b.2.ax.toNat b.1.toNat 0xFF with
    | .error cause => b.2.divideError cause ins
    | .ok (q, m) => ((b.2.setR8 .al (BitVec.ofNat 8 q)).setR8 .ah (BitVec.ofNat 8 m)).drawStatus
  | .ew e =>
    let b := s.read (ewLoc ins s e)
    match divide (b.2.dx.toNat * 2 ^ 16 + b.2.ax.toNat) b.1.toNat 0xFFFF with
    | .error cause => b.2.divideError cause ins
    | .ok (q, m) => ((b.2.setR16 .ax (BitVec.ofNat 16 q)).setR16 .dx (BitVec.ofNat 16 m)).drawStatus

def execDiv (f : UnForm) (s : State) : Host.Outcome State Fault Refusal :=
  complete [] (.div f) (divBody f) s

/-- R512. -/
def idivBody (f : UnForm) (ins : Ins) (s : State) : State :=
  match f with
  | .eb e =>
    let b := s.read (ebLoc ins s e)
    match divideSigned (idivLow b.2.params 8) 127 b.2.ax.toInt b.1.toInt with
    | .error cause => b.2.divideError cause ins
    | .ok (q, m) => ((b.2.setR8 .al (BitVec.ofInt 8 q)).setR8 .ah (BitVec.ofInt 8 m)).drawStatus
  | .ew e =>
    let b := s.read (ewLoc ins s e)
    match divideSigned (idivLow b.2.params 16) 32767 (b.2.dx ++ b.2.ax).toInt b.1.toInt with
    | .error cause => b.2.divideError cause ins
    | .ok (q, m) => ((b.2.setR16 .ax (BitVec.ofInt 16 q)).setR16 .dx (BitVec.ofInt 16 m)).drawStatus

def execIdiv (f : UnForm) (s : State) : Host.Outcome State Fault Refusal :=
  complete [] (.idiv f) (idivBody f) s

/-! ### Decimal and ASCII adjustment -/

/-- `AL[3:0] > 9 or F.AF = 1` (R513 to R516). -/
def State.lowAdjust (s : State) : Bool := decide (9 < (s.getR8 .al).toNat % 16) || s.flags.AF

/-- `int(old_al) > 0x99 or old_cf = 1` (R513, R514). -/
def State.highAdjust (s : State) : Bool := decide (0x99 < (s.getR8 .al).toNat) || s.flags.CF

/-- R513. The CF that the first adjustment writes is overwritten by the second. -/
def daaBody (_ins : Ins) (s : State) : State :=
  let low := s.lowAdjust
  let high := s.highAdjust
  let a := if low then s.getR8 .al + 6 else s.getR8 .al
  let r := if high then a + 0x60 else a
  ((s.setR8 .al r).setFlags (szp r { s.flags with CF := high, AF := low })).drawFlag .OF

def execDaa (s : State) : Host.Outcome State Fault Refusal := complete [] .daa daaBody s

/-- R514. The CF that the first adjustment writes is overwritten by the second. -/
def dasBody (_ins : Ins) (s : State) : State :=
  let low := s.lowAdjust
  let high := s.highAdjust
  let a := if low then s.getR8 .al - 6 else s.getR8 .al
  let r := if high then a - 0x60 else a
  ((s.setR8 .al r).setFlags (szp r { s.flags with CF := high, AF := low })).drawFlag .OF

def execDas (s : State) : Host.Outcome State Fault Refusal := complete [] .das dasBody s

/-- R515. -/
def aaaBody (_ins : Ins) (s : State) : State :=
  let adjust := s.lowAdjust
  let t := if adjust then (s.setR8 .al (s.getR8 .al + 6)).setR8 .ah (s.getR8 .ah + 1) else s
  let u := t.setR8 .al (t.getR8 .al &&& 0x0F#8)
  (u.setFlags { u.flags with AF := adjust, CF := adjust }).drawFlags [.OF, .SF, .ZF, .PF]

def execAaa (s : State) : Host.Outcome State Fault Refusal := complete [] .aaa aaaBody s

/-- R516. -/
def aasBody (_ins : Ins) (s : State) : State :=
  let adjust := s.lowAdjust
  let t := if adjust then (s.setR8 .al (s.getR8 .al - 6)).setR8 .ah (s.getR8 .ah - 1) else s
  let u := t.setR8 .al (t.getR8 .al &&& 0x0F#8)
  (u.setFlags { u.flags with AF := adjust, CF := adjust }).drawFlags [.OF, .SF, .ZF, .PF]

def execAas (s : State) : Host.Outcome State Fault Refusal := complete [] .aas aasBody s

/-- R517. -/
def aamBody (n : Byte) (ins : Ins) (s : State) : State :=
  if n = 0#8 then s.divideError .divideByZero ins
  else
    let t := s.getR8 .al
    let u := (s.setR8 .ah (t / n)).setR8 .al (t % n)
    (u.setFlags (szp (t % n) u.flags)).drawFlags [.OF, .AF, .CF]

def execAam (n : Byte) (s : State) : Host.Outcome State Fault Refusal := complete [] (.aam n) (aamBody n) s

/-- R518. -/
def aadBody (n : Byte) (_ins : Ins) (s : State) : State :=
  let r := s.getR8 .al + s.getR8 .ah * n
  let u := (s.setR8 .al r).setR8 .ah 0#8
  (u.setFlags (szp r u.flags)).drawFlags [.OF, .AF, .CF]

def execAad (n : Byte) (s : State) : Host.Outcome State Fault Refusal := complete [] (.aad n) (aadBody n) s

/-! ### Sign extension of the accumulator -/

/-- R519. -/
def cbwBody (_ins : Ins) (s : State) : State := s.setR16 .ax (sext16 (s.getR8 .al))

def execCbw (s : State) : Host.Outcome State Fault Refusal := complete [] .cbw cbwBody s

/-- R520. -/
def cwdBody (_ins : Ins) (s : State) : State := s.setR16 .dx (if s.ax.msb then 0xFFFF#16 else 0#16)

def execCwd (s : State) : Host.Outcome State Fault Refusal := complete [] .cwd cwdBody s

end Sys2Proof.Machine
end

