-- ==== Sys2Proof/Machine/Control.lean ====
section
/-! DEFINITION. The control transfer instructions (R901 to R921). -/

namespace Sys2Proof.Machine

/-- `ip <- trunc_16(int(ip) + int(disp))`, from the advanced ip (R332). -/
def State.jumpBy (s : State) (disp : Word) : State := s.setIp (s.ip + disp)

/-- A short jump taken when `c` holds (R905). -/
def State.jumpIf (s : State) (c : Bool) (d : Byte) : State := if c then s.jumpBy (sext16 d) else s

/-! ### Jumps -/

/-- R901, R902. -/
def jmpBody (f : JmpForm) (ins : Ins) (s : State) : State :=
  match f with
  | .short d => s.jumpBy (sext16 d)
  | .near d => s.jumpBy d
  | .ind e =>
    let t := s.read (ewLoc ins s e)
    t.2.setIp t.1

def execJmp (f : JmpForm) (s : State) : Host.Outcome State Fault Refusal :=
  complete [] (.jmp f) (jmpBody f) s

/-- R903, R904. -/
def jmpfBody (f : FarForm) (ins : Ins) (s : State) : State :=
  match f with
  | .ptr seg off => (s.setSReg .cs seg).setIp off
  | .ind m =>
    let x := s.readFar ins m
    (x.2.setIp x.1.1).setSReg .cs x.1.2

def execJmpf (f : FarForm) (s : State) : Host.Outcome State Fault Refusal :=
  complete [] (.jmpf f) (jmpfBody f) s

/-! ### Conditional jumps (R905, conditions R460) -/

/-- R905. -/
def joBody (d : Byte) (_ins : Ins) (s : State) : State := s.jumpIf (condO s.flags) d

def execJo (d : Byte) (s : State) : Host.Outcome State Fault Refusal := complete [] (.jo d) (joBody d) s

/-- R905. -/
def jnoBody (d : Byte) (_ins : Ins) (s : State) : State := s.jumpIf (condNO s.flags) d

def execJno (d : Byte) (s : State) : Host.Outcome State Fault Refusal := complete [] (.jno d) (jnoBody d) s

/-- R905. -/
def jbBody (d : Byte) (_ins : Ins) (s : State) : State := s.jumpIf (condB s.flags) d

def execJb (d : Byte) (s : State) : Host.Outcome State Fault Refusal := complete [] (.jb d) (jbBody d) s

/-- R905. -/
def jnbBody (d : Byte) (_ins : Ins) (s : State) : State := s.jumpIf (condNB s.flags) d

def execJnb (d : Byte) (s : State) : Host.Outcome State Fault Refusal := complete [] (.jnb d) (jnbBody d) s

/-- R905. -/
def jzBody (d : Byte) (_ins : Ins) (s : State) : State := s.jumpIf (condZ s.flags) d

def execJz (d : Byte) (s : State) : Host.Outcome State Fault Refusal := complete [] (.jz d) (jzBody d) s

/-- R905. -/
def jnzBody (d : Byte) (_ins : Ins) (s : State) : State := s.jumpIf (condNZ s.flags) d

def execJnz (d : Byte) (s : State) : Host.Outcome State Fault Refusal := complete [] (.jnz d) (jnzBody d) s

/-- R905. -/
def jbeBody (d : Byte) (_ins : Ins) (s : State) : State := s.jumpIf (condBE s.flags) d

def execJbe (d : Byte) (s : State) : Host.Outcome State Fault Refusal := complete [] (.jbe d) (jbeBody d) s

/-- R905. -/
def jaBody (d : Byte) (_ins : Ins) (s : State) : State := s.jumpIf (condA s.flags) d

def execJa (d : Byte) (s : State) : Host.Outcome State Fault Refusal := complete [] (.ja d) (jaBody d) s

/-- R905. -/
def jsBody (d : Byte) (_ins : Ins) (s : State) : State := s.jumpIf (condS s.flags) d

def execJs (d : Byte) (s : State) : Host.Outcome State Fault Refusal := complete [] (.js d) (jsBody d) s

/-- R905. -/
def jnsBody (d : Byte) (_ins : Ins) (s : State) : State := s.jumpIf (condNS s.flags) d

def execJns (d : Byte) (s : State) : Host.Outcome State Fault Refusal := complete [] (.jns d) (jnsBody d) s

/-- R905. -/
def jpBody (d : Byte) (_ins : Ins) (s : State) : State := s.jumpIf (condP s.flags) d

def execJp (d : Byte) (s : State) : Host.Outcome State Fault Refusal := complete [] (.jp d) (jpBody d) s

/-- R905. -/
def jnpBody (d : Byte) (_ins : Ins) (s : State) : State := s.jumpIf (condNP s.flags) d

def execJnp (d : Byte) (s : State) : Host.Outcome State Fault Refusal := complete [] (.jnp d) (jnpBody d) s

/-- R905. -/
def jlBody (d : Byte) (_ins : Ins) (s : State) : State := s.jumpIf (condL s.flags) d

def execJl (d : Byte) (s : State) : Host.Outcome State Fault Refusal := complete [] (.jl d) (jlBody d) s

/-- R905. -/
def jnlBody (d : Byte) (_ins : Ins) (s : State) : State := s.jumpIf (condNL s.flags) d

def execJnl (d : Byte) (s : State) : Host.Outcome State Fault Refusal := complete [] (.jnl d) (jnlBody d) s

/-- R905. -/
def jleBody (d : Byte) (_ins : Ins) (s : State) : State := s.jumpIf (condLE s.flags) d

def execJle (d : Byte) (s : State) : Host.Outcome State Fault Refusal := complete [] (.jle d) (jleBody d) s

/-- R905. -/
def jgBody (d : Byte) (_ins : Ins) (s : State) : State := s.jumpIf (condG s.flags) d

def execJg (d : Byte) (s : State) : Host.Outcome State Fault Refusal := complete [] (.jg d) (jgBody d) s

/-- R906. -/
def jcxzBody (d : Byte) (_ins : Ins) (s : State) : State := s.jumpIf (s.cx == 0#16) d

def execJcxz (d : Byte) (s : State) : Host.Outcome State Fault Refusal := complete [] (.jcxz d) (jcxzBody d) s

/-! ### Loops -/

/-- `CX <- trunc_16(int(CX) - 1)`: no flag changes (R907). -/
def State.countDown (s : State) : State := s.setR16 .cx (s.cx - 1)

/-- R907. -/
def loopBody (d : Byte) (_ins : Ins) (s : State) : State :=
  let t := s.countDown
  t.jumpIf (t.cx != 0#16) d

def execLoop (d : Byte) (s : State) : Host.Outcome State Fault Refusal := complete [] (.loop d) (loopBody d) s

/-- R908. -/
def loopzBody (d : Byte) (_ins : Ins) (s : State) : State :=
  let t := s.countDown
  t.jumpIf (t.cx != 0#16 && t.flags.ZF) d

def execLoopz (d : Byte) (s : State) : Host.Outcome State Fault Refusal :=
  complete [] (.loopz d) (loopzBody d) s

/-- R909. -/
def loopnzBody (d : Byte) (_ins : Ins) (s : State) : State :=
  let t := s.countDown
  t.jumpIf (t.cx != 0#16 && !t.flags.ZF) d

def execLoopnz (d : Byte) (s : State) : Host.Outcome State Fault Refusal :=
  complete [] (.loopnz d) (loopnzBody d) s

/-! ### Calls and returns -/

/-- R910, R911: an indirect target is read before the push. -/
def callBody (f : CallForm) (ins : Ins) (s : State) : State :=
  match f with
  | .near d => (s.push16 s.ip).jumpBy d
  | .ind e =>
    let t := s.read (ewLoc ins s e)
    (t.2.push16 t.2.ip).setIp t.1

def execCall (f : CallForm) (s : State) : Host.Outcome State Fault Refusal :=
  complete [] (.call f) (callBody f) s

/-- Push CS, then ip (R912, R913). -/
def State.pushReturn (s : State) : State :=
  let t := s.push16 s.cs
  t.push16 t.ip

/-- R912, R913: an indirect target is read before the pushes. -/
def callfBody (f : FarForm) (ins : Ins) (s : State) : State :=
  match f with
  | .ptr seg off => (s.pushReturn.setSReg .cs seg).setIp off
  | .ind m =>
    let x := s.readFar ins m
    (x.2.pushReturn.setSReg .cs x.1.2).setIp x.1.1

def execCallf (f : FarForm) (s : State) : Host.Outcome State Fault Refusal :=
  complete [] (.callf f) (callfBody f) s

/-- What a return releases (R915, R917). -/
def State.release (s : State) (f : RetForm) : State :=
  match f with
  | .plain => s
  | .imm v => s.setR16 .sp (s.sp + v)

/-- R914, R915. -/
def retBody (f : RetForm) (_ins : Ins) (s : State) : State :=
  let t := s.pop16
  (t.2.setIp t.1).release f

def execRet (f : RetForm) (s : State) : Host.Outcome State Fault Refusal :=
  complete [] (.ret f) (retBody f) s

/-- R916, R917. -/
def retfBody (f : RetForm) (_ins : Ins) (s : State) : State :=
  let t := s.pop16
  let u := (t.2.setIp t.1).pop16
  (u.2.setSReg .cs u.1).release f

def execRetf (f : RetForm) (s : State) : Host.Outcome State Fault Refusal :=
  complete [] (.retf f) (retfBody f) s

/-! ### Software interrupts -/

/-- R918. -/
def intBody (n : Byte) (_ins : Ins) (s : State) : State := s.interruptEntry n

def execInt (n : Byte) (s : State) : Host.Outcome State Fault Refusal := complete [] (.int n) (intBody n) s

/-- R919. -/
def int3Body (_ins : Ins) (s : State) : State := s.interruptEntry 3#8

def execInt3 (s : State) : Host.Outcome State Fault Refusal := complete [] .int3 int3Body s

/-- R920. -/
def intoBody (_ins : Ins) (s : State) : State := if s.flags.OF then s.interruptEntry 4#8 else s

def execInto (s : State) : Host.Outcome State Fault Refusal := complete [] .into intoBody s

/-- R921. -/
def iretBody (_ins : Ins) (s : State) : State := s.interruptReturn

def execIret (s : State) : Host.Outcome State Fault Refusal := complete [] .iret iretBody s

end Sys2Proof.Machine
end

