-- ==== Sys2Proof/Machine/Logic.lean ====
section
/-! DEFINITION. The logic, shift and rotate instructions (R601 to R613). -/

namespace Sys2Proof.Machine

/-! ### Logic -/

/-- The flags of a logic result, AF a draw (R454). -/
def State.logicResult {w : Nat} (s : State) (r : BitVec w) : State :=
  (s.setFlags (logicFlags r s.flags)).drawFlag .AF

/-- The common ALU pattern for a logic operation (R441, R454). -/
def logicStore (op : ∀ w : Nat, BitVec w → BitVec w → BitVec w) (f : AluForm) (ins : Ins) (s : State) : State :=
  let p := aluPair ins s f
  let a := s.read p.dst
  let b := a.2.read p.src
  let r := op p.w a.1 b.1
  (b.2.logicResult r).write p.dst r

/-- R601. -/
def andBody (f : AluForm) (ins : Ins) (s : State) : State := logicStore (fun _ a b => a &&& b) f ins s

def execAnd (f : AluForm) (s : State) : Host.Outcome State Fault Refusal :=
  complete [] (.and f) (andBody f) s

/-- R602. -/
def orBody (f : AluForm) (ins : Ins) (s : State) : State := logicStore (fun _ a b => a ||| b) f ins s

def execOr (f : AluForm) (s : State) : Host.Outcome State Fault Refusal :=
  complete [] (.or f) (orBody f) s

/-- R603. -/
def xorBody (f : AluForm) (ins : Ins) (s : State) : State := logicStore (fun _ a b => a ^^^ b) f ins s

def execXor (f : AluForm) (s : State) : Host.Outcome State Fault Refusal :=
  complete [] (.xor f) (xorBody f) s

/-- R604. -/
def testBody (f : TestForm) (ins : Ins) (s : State) : State :=
  let p := testPair ins s f
  let a := s.read p.dst
  let b := a.2.read p.src
  b.2.logicResult (a.1 &&& b.1)

def execTest (f : TestForm) (s : State) : Host.Outcome State Fault Refusal :=
  complete [] (.test f) (testBody f) s

/-- R605: a xor mask_w. -/
def notBody (f : UnForm) (ins : Ins) (s : State) : State :=
  let o := unOperand ins s f
  let a := s.read o.loc
  a.2.write o.loc (~~~ a.1)

def execNot (f : UnForm) (s : State) : Host.Outcome State Fault Refusal :=
  complete [] (.not f) (notBody f) s

/-! ### One-bit steps: the new value and the new CF -/

/-- A flag as bit 0 of a value. -/
def bottomBit (w : Nat) (b : Bool) : BitVec w := (BitVec.ofBool b).setWidth w

/-- A flag as bit `w - 1` of a value. -/
def topBit (w : Nat) (b : Bool) : BitVec w := bottomBit w b <<< (w - 1)

/-- R607. -/
def rolStep (w : Nat) (v : BitVec w) (_c : Bool) : BitVec w × Bool := (v <<< 1 ||| bottomBit w v.msb, v.msb)

/-- R608. -/
def rorStep (w : Nat) (v : BitVec w) (_c : Bool) : BitVec w × Bool :=
  (v >>> 1 ||| topBit w (v.getLsbD 0), v.getLsbD 0)

/-- R609. -/
def rclStep (w : Nat) (v : BitVec w) (c : Bool) : BitVec w × Bool := (v <<< 1 ||| bottomBit w c, v.msb)

/-- R610. -/
def rcrStep (w : Nat) (v : BitVec w) (c : Bool) : BitVec w × Bool := (v >>> 1 ||| topBit w c, v.getLsbD 0)

/-- R611. -/
def shlStep (w : Nat) (v : BitVec w) (_c : Bool) : BitVec w × Bool := (v <<< 1, v.msb)

/-- R612. -/
def shrStep (w : Nat) (v : BitVec w) (_c : Bool) : BitVec w × Bool := (v >>> 1, v.getLsbD 0)

/-- R613. -/
def sarStep (w : Nat) (v : BitVec w) (_c : Bool) : BitVec w × Bool :=
  (v >>> 1 ||| topBit w v.msb, v.getLsbD 0)

/-! ### The common part (R606) -/

/-- A one-bit step repeated `n` times. -/
def shiftTimes {w : Nat} (step : BitVec w → Bool → BitVec w × Bool) : Nat → BitVec w → Bool → BitVec w × Bool
  | 0, v, c => (v, c)
  | n + 1, v, c => shiftTimes step n (step v c).1 (step v c).2

/-- OF after a shift or rotate: defined for a count of 1, else a draw (R606). -/
def State.shiftOverflow (s : State) (n : Byte) (overflow : Bool) : State :=
  if n = 1#8 then s.setFlags { s.flags with OF := overflow } else s.drawFlag .OF

/-- The common part of the rotates: `overflow orig v cf` is OF for a count of 1 (R606 to R610). -/
def rotateBody (step : ∀ w : Nat, BitVec w → Bool → BitVec w × Bool)
    (overflow : ∀ w : Nat, BitVec w → BitVec w → Bool → Bool) (f : ShiftForm) (ins : Ins) (s : State) : State :=
  let n := shiftCount s f
  if n = 0#8 then s
  else
    let o := shiftOperand ins s f
    let a := s.read o.loc
    let r := shiftTimes (step o.w) n.toNat a.1 a.2.flags.CF
    let t := (a.2.setFlags { a.2.flags with CF := r.2 }).shiftOverflow n (overflow o.w a.1 r.1 r.2)
    t.write o.loc r.1

/-- The common part of the shifts, which also set SF, ZF and PF and draw AF (R606, R611 to R613). -/
def shiftBody (step : ∀ w : Nat, BitVec w → Bool → BitVec w × Bool)
    (overflow : ∀ w : Nat, BitVec w → BitVec w → Bool → Bool) (f : ShiftForm) (ins : Ins) (s : State) : State :=
  let n := shiftCount s f
  if n = 0#8 then s
  else
    let o := shiftOperand ins s f
    let a := s.read o.loc
    let r := shiftTimes (step o.w) n.toNat a.1 a.2.flags.CF
    let t := (a.2.setFlags { a.2.flags with CF := r.2 }).shiftOverflow n (overflow o.w a.1 r.1 r.2)
    let u := (t.setFlags (szp r.1 t.flags)).drawFlag .AF
    u.write o.loc r.1

/-- `msb_w(v) xor F.CF` on the result (R607, R609, R611). -/
def leftOverflow (w : Nat) (_orig v : BitVec w) (cf : Bool) : Bool := v.msb != cf

/-- `v[w-1] xor v[w-2]` on the result (R608, R610). -/
def rightOverflow (w : Nat) (_orig v : BitVec w) (_cf : Bool) : Bool := v.getLsbD (w - 1) != v.getLsbD (w - 2)

/-- `msb_w(orig)` (R612). -/
def shrOverflow (w : Nat) (orig _v : BitVec w) (_cf : Bool) : Bool := orig.msb

/-- 0 (R613). -/
def sarOverflow (w : Nat) (_orig _v : BitVec w) (_cf : Bool) : Bool := false

/-! ### The instructions -/

/-- R607. -/
def rolBody (f : ShiftForm) (ins : Ins) (s : State) : State := rotateBody rolStep leftOverflow f ins s

def execRol (f : ShiftForm) (s : State) : Host.Outcome State Fault Refusal :=
  complete [] (.rol f) (rolBody f) s

/-- R608. -/
def rorBody (f : ShiftForm) (ins : Ins) (s : State) : State := rotateBody rorStep rightOverflow f ins s

def execRor (f : ShiftForm) (s : State) : Host.Outcome State Fault Refusal :=
  complete [] (.ror f) (rorBody f) s

/-- R609. -/
def rclBody (f : ShiftForm) (ins : Ins) (s : State) : State := rotateBody rclStep leftOverflow f ins s

def execRcl (f : ShiftForm) (s : State) : Host.Outcome State Fault Refusal :=
  complete [] (.rcl f) (rclBody f) s

/-- R610. -/
def rcrBody (f : ShiftForm) (ins : Ins) (s : State) : State := rotateBody rcrStep rightOverflow f ins s

def execRcr (f : ShiftForm) (s : State) : Host.Outcome State Fault Refusal :=
  complete [] (.rcr f) (rcrBody f) s

/-- R611. -/
def shlBody (f : ShiftForm) (ins : Ins) (s : State) : State := shiftBody shlStep leftOverflow f ins s

def execShl (f : ShiftForm) (s : State) : Host.Outcome State Fault Refusal :=
  complete [] (.shl f) (shlBody f) s

/-- R612. -/
def shrBody (f : ShiftForm) (ins : Ins) (s : State) : State := shiftBody shrStep shrOverflow f ins s

def execShr (f : ShiftForm) (s : State) : Host.Outcome State Fault Refusal :=
  complete [] (.shr f) (shrBody f) s

/-- R613. -/
def sarBody (f : ShiftForm) (ins : Ins) (s : State) : State := shiftBody sarStep sarOverflow f ins s

def execSar (f : ShiftForm) (s : State) : Host.Outcome State Fault Refusal :=
  complete [] (.sar f) (sarBody f) s

end Sys2Proof.Machine
end

