-- ==== Sys2Proof/Machine/Misc.lean ====
section
/-! DEFINITION. Port input and output, flag control, HLT, WAIT and ESC (R1001 to R1012). -/

namespace Sys2Proof.Machine

/-! ### Ports -/

/-- The port number of IN and OUT: the immediate zero-extended, or DX (R244). -/
def State.portNumber (s : State) : PortForm → Word
  | .alib p => p.setWidth 16
  | .axib p => p.setWidth 16
  | .aldx => s.dx
  | .axdx => s.dx

/-- A byte input into AL. -/
def State.inAl (s : State) (p : Word) : State :=
  let v := s.portIn8 p
  v.2.setR8 .al v.1

/-- A word input into AX. -/
def State.inAx (s : State) (p : Word) : State :=
  let v := s.portIn16 p
  v.2.setR16 .ax v.1

/-- R1001. -/
def inpBody (f : PortForm) (_ins : Ins) (s : State) : State :=
  match f with
  | .alib p => s.inAl (s.portNumber (.alib p))
  | .axib p => s.inAx (s.portNumber (.axib p))
  | .aldx => s.inAl (s.portNumber .aldx)
  | .axdx => s.inAx (s.portNumber .axdx)

def execInp (f : PortForm) (s : State) : Host.Outcome State Fault Refusal :=
  complete [] (.inp f) (inpBody f) s

/-- R1002. -/
def outBody (f : PortForm) (_ins : Ins) (s : State) : State :=
  match f with
  | .alib p => s.portOut8 (s.portNumber (.alib p)) (s.getR8 .al)
  | .axib p => s.portOut16 (s.portNumber (.axib p)) s.ax
  | .aldx => s.portOut8 (s.portNumber .aldx) (s.getR8 .al)
  | .axdx => s.portOut16 (s.portNumber .axdx) s.ax

def execOut (f : PortForm) (s : State) : Host.Outcome State Fault Refusal :=
  complete [] (.out f) (outBody f) s

/-! ### Flag control -/

/-- R1003. -/
def clcBody (_ins : Ins) (s : State) : State := s.setFlags { s.flags with CF := false }

def execClc (s : State) : Host.Outcome State Fault Refusal := complete [] .clc clcBody s

/-- R1004. -/
def stcBody (_ins : Ins) (s : State) : State := s.setFlags { s.flags with CF := true }

def execStc (s : State) : Host.Outcome State Fault Refusal := complete [] .stc stcBody s

/-- R1005. -/
def cmcBody (_ins : Ins) (s : State) : State := s.setFlags { s.flags with CF := !s.flags.CF }

def execCmc (s : State) : Host.Outcome State Fault Refusal := complete [] .cmc cmcBody s

/-- R1006. -/
def cldBody (_ins : Ins) (s : State) : State := s.setFlags { s.flags with DF := false }

def execCld (s : State) : Host.Outcome State Fault Refusal := complete [] .cld cldBody s

/-- R1007. -/
def stdBody (_ins : Ins) (s : State) : State := s.setFlags { s.flags with DF := true }

def execStd (s : State) : Host.Outcome State Fault Refusal := complete [] .std stdBody s

/-- R1008. -/
def cliBody (_ins : Ins) (s : State) : State := s.setFlags { s.flags with IF := false }

def execCli (s : State) : Host.Outcome State Fault Refusal := complete [] .cli cliBody s

/-- R1009. -/
def stiBody (_ins : Ins) (s : State) : State := s.setFlags { s.flags with IF := true }

def execSti (s : State) : Host.Outcome State Fault Refusal := complete [] .sti stiBody s

/-! ### HLT, WAIT and ESC -/

/-- R1010, R1102: the step ends with status halted; nothing but the ip advance happens. -/
def hltBody (ins : Ins) (s : State) : State := s.setStatus (.halted ins.start)

def execHlt (s : State) : Host.Outcome State Fault Refusal := complete [] .hlt hltBody s

/-- R1011: WAIT completes at once. -/
def waitBody (_ins : Ins) (s : State) : State := s

def execWait (s : State) : Host.Outcome State Fault Refusal := complete [] .wait waitBody s

/-- R1012: the rule's own words, which the profile gate forestalls in both profiles (R406). -/
def escBody (ins : Ins) (s : State) : State := s.setStatus (.unhandled ins.cls ins.start)

def execEsc (n reg : BitVec 3) (e : Rm (BitVec 3)) (s : State) : Host.Outcome State Fault Refusal :=
  complete [] (.esc n reg e) escBody s

end Sys2Proof.Machine
end

