-- ==== Sys2Proof/Machine/Strings.lean ====
section
/-! DEFINITION. The string instructions and the repeat driver (R800 to R806). -/

namespace Sys2Proof.Machine

/-! ### Operands and index steps (R423, R800) -/

/-- The byte string source: (DS or the override):SI. -/
def stringSrc8 (ins : Ins) (s : State) : Loc 8 := .mem8 (s.sourceSeg ins) s.si

/-- The word string source. -/
def stringSrc16 (ins : Ins) (s : State) : Loc 16 := .mem16 (s.sourceSeg ins) s.si

/-- The byte string destination: ES:DI, never overridden (R337). -/
def stringDst8 (s : State) : Loc 8 := .mem8 s.es s.di

/-- The word string destination. -/
def stringDst16 (s : State) : Loc 16 := .mem16 s.es s.di

/-- `adv(x)` for an index step of `k` bytes (R800). -/
def State.adv (s : State) (k x : Word) : Word := if s.flags.DF then x - k else x + k

/-- Advance SI. -/
def State.advSi (s : State) (k : Word) : State := s.setR16 .si (s.adv k s.si)

/-- Advance DI. -/
def State.advDi (s : State) (k : Word) : State := s.setR16 .di (s.adv k s.di)

/-! ### The repeat driver (R801) -/

/-- Does the repeat go on, the count aside? Only CMPS and SCAS look at ZF. -/
def repeatHolds (r : Rep) (compares : Bool) (f : Flags) : Bool :=
  match r with
  | .repE => !compares || f.ZF
  | .repNe => !compares || !f.ZF

/-- Step 4 of a string instruction: one iteration, or the repeat driver's part of it (R801). -/
def repeatStep (ins : Ins) (compares : Bool) (iteration : State → State) (s : State) : State :=
  match ins.rep with
  | none => iteration s
  | some r =>
    if s.cx = 0#16 then s
    else
      let t := iteration s
      let u := t.setR16 .cx (t.cx - 1)
      if u.cx ≠ 0#16 ∧ repeatHolds r compares u.flags = true then u.setIp (u.ip - BitVec.ofNat 16 ins.size)
      else u

/-! ### One iteration of each instruction -/

/-- R802. -/
def movsOnce {w : Nat} (src dst : Loc w) (k : Word) (s : State) : State :=
  let v := s.read src
  ((v.2.write dst v.1).advSi k).advDi k

/-- R803: source minus destination. -/
def cmpsOnce {w : Nat} (src dst : Loc w) (k : Word) (s : State) : State :=
  let a := s.read src
  let b := a.2.read dst
  ((b.2.setFlags (subFlags a.1 b.1 false b.2.flags).2).advSi k).advDi k

/-- R804: accumulator minus memory. -/
def scasOnce {w : Nat} (acc dst : Loc w) (k : Word) (s : State) : State :=
  let a := s.read acc
  let b := a.2.read dst
  (b.2.setFlags (subFlags a.1 b.1 false b.2.flags).2).advDi k

/-- R805. -/
def lodsOnce {w : Nat} (acc src : Loc w) (k : Word) (s : State) : State :=
  let v := s.read src
  (v.2.write acc v.1).advSi k

/-- R806. -/
def stosOnce {w : Nat} (dst acc : Loc w) (k : Word) (s : State) : State :=
  let v := s.read acc
  (v.2.write dst v.1).advDi k

/-! ### The instructions -/

/-- R802. -/
def movsbBody (ins : Ins) (s : State) : State :=
  repeatStep ins false (fun t => movsOnce (stringSrc8 ins t) (stringDst8 t) 1 t) s

def execMovsb (s : State) : Host.Outcome State Fault Refusal := complete [] .movsb movsbBody s

/-- R802. -/
def movswBody (ins : Ins) (s : State) : State :=
  repeatStep ins false (fun t => movsOnce (stringSrc16 ins t) (stringDst16 t) 2 t) s

def execMovsw (s : State) : Host.Outcome State Fault Refusal := complete [] .movsw movswBody s

/-- R803. -/
def cmpsbBody (ins : Ins) (s : State) : State :=
  repeatStep ins true (fun t => cmpsOnce (stringSrc8 ins t) (stringDst8 t) 1 t) s

def execCmpsb (s : State) : Host.Outcome State Fault Refusal := complete [] .cmpsb cmpsbBody s

/-- R803. -/
def cmpswBody (ins : Ins) (s : State) : State :=
  repeatStep ins true (fun t => cmpsOnce (stringSrc16 ins t) (stringDst16 t) 2 t) s

def execCmpsw (s : State) : Host.Outcome State Fault Refusal := complete [] .cmpsw cmpswBody s

/-- R804. -/
def scasbBody (ins : Ins) (s : State) : State :=
  repeatStep ins true (fun t => scasOnce (.r8 .al) (stringDst8 t) 1 t) s

def execScasb (s : State) : Host.Outcome State Fault Refusal := complete [] .scasb scasbBody s

/-- R804. -/
def scaswBody (ins : Ins) (s : State) : State :=
  repeatStep ins true (fun t => scasOnce (.r16 .ax) (stringDst16 t) 2 t) s

def execScasw (s : State) : Host.Outcome State Fault Refusal := complete [] .scasw scaswBody s

/-- R805. -/
def lodsbBody (ins : Ins) (s : State) : State :=
  repeatStep ins false (fun t => lodsOnce (.r8 .al) (stringSrc8 ins t) 1 t) s

def execLodsb (s : State) : Host.Outcome State Fault Refusal := complete [] .lodsb lodsbBody s

/-- R805. -/
def lodswBody (ins : Ins) (s : State) : State :=
  repeatStep ins false (fun t => lodsOnce (.r16 .ax) (stringSrc16 ins t) 2 t) s

def execLodsw (s : State) : Host.Outcome State Fault Refusal := complete [] .lodsw lodswBody s

/-- R806. -/
def stosbBody (ins : Ins) (s : State) : State :=
  repeatStep ins false (fun t => stosOnce (stringDst8 t) (.r8 .al) 1 t) s

def execStosb (s : State) : Host.Outcome State Fault Refusal := complete [] .stosb stosbBody s

/-- R806. -/
def stoswBody (ins : Ins) (s : State) : State :=
  repeatStep ins false (fun t => stosOnce (stringDst16 t) (.r16 .ax) 2 t) s

def execStosw (s : State) : Host.Outcome State Fault Refusal := complete [] .stosw stoswBody s

end Sys2Proof.Machine
end

