-- ==== Sys2Proof/Machine/Transfer.lean ====
section
/-! DEFINITION. The data transfer and stack instructions (R701 to R713). -/

namespace Sys2Proof.Machine

/-- R701. -/
def movBody (f : MovForm) (ins : Ins) (s : State) : State :=
  let p := movPair ins s f
  let b := s.read p.src
  b.2.write p.dst b.1

def execMov (f : MovForm) (s : State) : Host.Outcome State Fault Refusal :=
  complete [] (.mov f) (movBody f) s

/-- R702: both locations are fixed before either write (R422). -/
def xchgBody (f : XchgForm) (ins : Ins) (s : State) : State :=
  let p := xchgPair ins s f
  let a := s.read p.dst
  let b := a.2.read p.src
  (b.2.write p.dst b.1).write p.src a.1

def execXchg (f : XchgForm) (s : State) : Host.Outcome State Fault Refusal :=
  complete [] (.xchg f) (xchgBody f) s

/-- R703: nothing. -/
def nopBody (_ins : Ins) (s : State) : State := s

def execNop (s : State) : Host.Outcome State Fault Refusal := complete [] .nop nopBody s

/-- R704: no memory access. -/
def leaBody (g : Reg16) (m : MemOp) (_ins : Ins) (s : State) : State := s.setR16 g (s.ea m)

def execLea (g : Reg16) (m : MemOp) (s : State) : Host.Outcome State Fault Refusal :=
  complete [] (.lea g m) (leaBody g m) s

/-- R705. -/
def ldsBody (g : Reg16) (m : MemOp) (ins : Ins) (s : State) : State :=
  let x := s.readFar ins m
  (x.2.setR16 g x.1.1).setSReg .ds x.1.2

def execLds (g : Reg16) (m : MemOp) (s : State) : Host.Outcome State Fault Refusal :=
  complete [] (.lds g m) (ldsBody g m) s

/-- R706. -/
def lesBody (g : Reg16) (m : MemOp) (ins : Ins) (s : State) : State :=
  let x := s.readFar ins m
  (x.2.setR16 g x.1.1).setSReg .es x.1.2

def execLes (g : Reg16) (m : MemOp) (s : State) : Host.Outcome State Fault Refusal :=
  complete [] (.les g m) (lesBody g m) s

/-- R707: AL is added unsigned. -/
def xlatBody (ins : Ins) (s : State) : State :=
  let x := s.segRead8 (s.sourceSeg ins) (s.bx + (s.getR8 .al).setWidth 16)
  x.2.setR8 .al x.1

def execXlat (s : State) : Host.Outcome State Fault Refusal := complete [] .xlat xlatBody s

/-- R708. -/
def lahfBody (_ins : Ins) (s : State) : State := s.setR8 .ah (loByte s.packed)

def execLahf (s : State) : Host.Outcome State Fault Refusal := complete [] .lahf lahfBody s

/-- R709. -/
def sahfBody (_ins : Ins) (s : State) : State :=
  let v := s.getR8 .ah
  s.setFlags { s.flags with
    SF := v.getLsbD 7, ZF := v.getLsbD 6, AF := v.getLsbD 4, PF := v.getLsbD 2, CF := v.getLsbD 0 }

def execSahf (s : State) : Host.Outcome State Fault Refusal := complete [] .sahf sahfBody s

/-- R710: the operand's location is fixed first (R422), then SP falls, then the operand is read. -/
def pushBody (f : StackForm) (ins : Ins) (s : State) : State :=
  let o := stackLoc ins s f
  let t := s.setR16 .sp (s.sp - 2)
  let v := t.read o
  v.2.segWrite16 v.2.ss v.2.sp v.1

def execPush (f : StackForm) (s : State) : Host.Outcome State Fault Refusal :=
  complete [] (.push f) (pushBody f) s

/-- R711: the operand's location is fixed first (R422), and written after SP has risen. -/
def popBody (f : StackForm) (ins : Ins) (s : State) : State :=
  let o := stackLoc ins s f
  let v := s.pop16
  v.2.write o v.1

def execPop (f : StackForm) (s : State) : Host.Outcome State Fault Refusal :=
  complete [] (.pop f) (popBody f) s

/-- R712. -/
def pushfBody (_ins : Ins) (s : State) : State := s.push16 s.packed

def execPushf (s : State) : Host.Outcome State Fault Refusal := complete [] .pushf pushfBody s

/-- R713. -/
def popfBody (_ins : Ins) (s : State) : State :=
  let v := s.pop16
  v.2.setFlags (Flags.unpack v.1)

def execPopf (s : State) : Host.Outcome State Fault Refusal := complete [] .popf popfBody s

end Sys2Proof.Machine
end

