-- ==== Sys2Proof/Machine/Prefix.lean ====
section
/-! DEFINITION. Prefixed instructions (R303 to R307) and rejected encodings (R1101). A prefix sets the
decode context of the instruction it stands before, so its meaning runs that instruction's rule under the
prefixes gathered so far. -/

namespace Sys2Proof.Machine

/-- A rejected encoding met after the prefixes `ps`: the step's outcome is the decode error, and the bytes
read are the prefix bytes and then `bytes` (R1101). -/
def rejected (ps : List Prefix) (why : DecodeReason) (bytes : List Byte) (s : State) :
    Host.Outcome State Fault Refusal :=
  .next (s.decodeFailure why (ps.map Prefix.byte ++ bytes))

/-- The instruction under the prefixes `ps`, outermost first: the same rule as without them, with the
override, the repeat mode and the size that they give (R303, R306, R344). LOCK is a prefix only when
`LOCK_PREFIX = ignore`; otherwise its byte is an invalid opcode (R307). -/
def runIn (ps : List Prefix) : Instr → State → Host.Outcome State Fault Refusal
  | .es j, s => runIn (ps ++ [.es]) j s
  | .cs j, s => runIn (ps ++ [.cs]) j s
  | .ss j, s => runIn (ps ++ [.ss]) j s
  | .ds j, s => runIn (ps ++ [.ds]) j s
  | .rep j, s => runIn (ps ++ [.rep]) j s
  | .repne j, s => runIn (ps ++ [.repne]) j s
  | .lock j, s =>
    if s.params.lockPrefix = .ignore then runIn (ps ++ [.lock]) j s else rejected ps .invalidOpcode [0xF0#8] s
  | .invalid why bytes, s => rejected ps why bytes s
  | .add f, s => complete ps (.add f) (addBody f) s
  | .adc f, s => complete ps (.adc f) (adcBody f) s
  | .sub f, s => complete ps (.sub f) (subBody f) s
  | .sbb f, s => complete ps (.sbb f) (sbbBody f) s
  | .cmp f, s => complete ps (.cmp f) (cmpBody f) s
  | .inc f, s => complete ps (.inc f) (incBody f) s
  | .dec f, s => complete ps (.dec f) (decBody f) s
  | .neg f, s => complete ps (.neg f) (negBody f) s
  | .mul f, s => complete ps (.mul f) (mulBody f) s
  | .imul f, s => complete ps (.imul f) (imulBody f) s
  | .div f, s => complete ps (.div f) (divBody f) s
  | .idiv f, s => complete ps (.idiv f) (idivBody f) s
  | .daa, s => complete ps .daa daaBody s
  | .das, s => complete ps .das dasBody s
  | .aaa, s => complete ps .aaa aaaBody s
  | .aas, s => complete ps .aas aasBody s
  | .aam n, s => complete ps (.aam n) (aamBody n) s
  | .aad n, s => complete ps (.aad n) (aadBody n) s
  | .cbw, s => complete ps .cbw cbwBody s
  | .cwd, s => complete ps .cwd cwdBody s
  | .and f, s => complete ps (.and f) (andBody f) s
  | .or f, s => complete ps (.or f) (orBody f) s
  | .xor f, s => complete ps (.xor f) (xorBody f) s
  | .test f, s => complete ps (.test f) (testBody f) s
  | .not f, s => complete ps (.not f) (notBody f) s
  | .rol f, s => complete ps (.rol f) (rolBody f) s
  | .ror f, s => complete ps (.ror f) (rorBody f) s
  | .rcl f, s => complete ps (.rcl f) (rclBody f) s
  | .rcr f, s => complete ps (.rcr f) (rcrBody f) s
  | .shl f, s => complete ps (.shl f) (shlBody f) s
  | .shr f, s => complete ps (.shr f) (shrBody f) s
  | .sar f, s => complete ps (.sar f) (sarBody f) s
  | .mov f, s => complete ps (.mov f) (movBody f) s
  | .xchg f, s => complete ps (.xchg f) (xchgBody f) s
  | .nop, s => complete ps .nop nopBody s
  | .lea g m, s => complete ps (.lea g m) (leaBody g m) s
  | .lds g m, s => complete ps (.lds g m) (ldsBody g m) s
  | .les g m, s => complete ps (.les g m) (lesBody g m) s
  | .xlat, s => complete ps .xlat xlatBody s
  | .lahf, s => complete ps .lahf lahfBody s
  | .sahf, s => complete ps .sahf sahfBody s
  | .push f, s => complete ps (.push f) (pushBody f) s
  | .pop f, s => complete ps (.pop f) (popBody f) s
  | .pushf, s => complete ps .pushf pushfBody s
  | .popf, s => complete ps .popf popfBody s
  | .movsb, s => complete ps .movsb movsbBody s
  | .movsw, s => complete ps .movsw movswBody s
  | .cmpsb, s => complete ps .cmpsb cmpsbBody s
  | .cmpsw, s => complete ps .cmpsw cmpswBody s
  | .scasb, s => complete ps .scasb scasbBody s
  | .scasw, s => complete ps .scasw scaswBody s
  | .lodsb, s => complete ps .lodsb lodsbBody s
  | .lodsw, s => complete ps .lodsw lodswBody s
  | .stosb, s => complete ps .stosb stosbBody s
  | .stosw, s => complete ps .stosw stoswBody s
  | .jmp f, s => complete ps (.jmp f) (jmpBody f) s
  | .jmpf f, s => complete ps (.jmpf f) (jmpfBody f) s
  | .jo d, s => complete ps (.jo d) (joBody d) s
  | .jno d, s => complete ps (.jno d) (jnoBody d) s
  | .jb d, s => complete ps (.jb d) (jbBody d) s
  | .jnb d, s => complete ps (.jnb d) (jnbBody d) s
  | .jz d, s => complete ps (.jz d) (jzBody d) s
  | .jnz d, s => complete ps (.jnz d) (jnzBody d) s
  | .jbe d, s => complete ps (.jbe d) (jbeBody d) s
  | .ja d, s => complete ps (.ja d) (jaBody d) s
  | .js d, s => complete ps (.js d) (jsBody d) s
  | .jns d, s => complete ps (.jns d) (jnsBody d) s
  | .jp d, s => complete ps (.jp d) (jpBody d) s
  | .jnp d, s => complete ps (.jnp d) (jnpBody d) s
  | .jl d, s => complete ps (.jl d) (jlBody d) s
  | .jnl d, s => complete ps (.jnl d) (jnlBody d) s
  | .jle d, s => complete ps (.jle d) (jleBody d) s
  | .jg d, s => complete ps (.jg d) (jgBody d) s
  | .jcxz d, s => complete ps (.jcxz d) (jcxzBody d) s
  | .loop d, s => complete ps (.loop d) (loopBody d) s
  | .loopz d, s => complete ps (.loopz d) (loopzBody d) s
  | .loopnz d, s => complete ps (.loopnz d) (loopnzBody d) s
  | .call f, s => complete ps (.call f) (callBody f) s
  | .callf f, s => complete ps (.callf f) (callfBody f) s
  | .ret f, s => complete ps (.ret f) (retBody f) s
  | .retf f, s => complete ps (.retf f) (retfBody f) s
  | .int n, s => complete ps (.int n) (intBody n) s
  | .int3, s => complete ps .int3 int3Body s
  | .into, s => complete ps .into intoBody s
  | .iret, s => complete ps .iret iretBody s
  | .inp f, s => complete ps (.inp f) (inpBody f) s
  | .out f, s => complete ps (.out f) (outBody f) s
  | .clc, s => complete ps .clc clcBody s
  | .stc, s => complete ps .stc stcBody s
  | .cmc, s => complete ps .cmc cmcBody s
  | .cld, s => complete ps .cld cldBody s
  | .std, s => complete ps .std stdBody s
  | .cli, s => complete ps .cli cliBody s
  | .sti, s => complete ps .sti stiBody s
  | .hlt, s => complete ps .hlt hltBody s
  | .wait, s => complete ps .wait waitBody s
  | .esc n reg e, s => complete ps (.esc n reg e) escBody s

/-- R304: 0x26, override ES. -/
def execEs (j : Instr) (s : State) : Host.Outcome State Fault Refusal := runIn [.es] j s

/-- R304: 0x2E, override CS. -/
def execCs (j : Instr) (s : State) : Host.Outcome State Fault Refusal := runIn [.cs] j s

/-- R304: 0x36, override SS. -/
def execSs (j : Instr) (s : State) : Host.Outcome State Fault Refusal := runIn [.ss] j s

/-- R304: 0x3E, override DS. -/
def execDs (j : Instr) (s : State) : Host.Outcome State Fault Refusal := runIn [.ds] j s

/-- R305: 0xF3. -/
def execRep (j : Instr) (s : State) : Host.Outcome State Fault Refusal := runIn [.rep] j s

/-- R305: 0xF2. -/
def execRepne (j : Instr) (s : State) : Host.Outcome State Fault Refusal := runIn [.repne] j s

/-- R307: 0xF0, ignored when `LOCK_PREFIX = ignore`, else an invalid opcode. -/
def execLock (j : Instr) (s : State) : Host.Outcome State Fault Refusal :=
  if s.params.lockPrefix = .ignore then runIn [.lock] j s else rejected [] .invalidOpcode [0xF0#8] s

/-- R1101: the decode error of a rejected encoding. -/
def execInvalid (why : DecodeReason) (bytes : List Byte) (s : State) : Host.Outcome State Fault Refusal :=
  rejected [] why bytes s

end Sys2Proof.Machine
end

