-- ==== Sys2Proof/Machine/Fetch.lean ====
section
/-! DEFINITION. Fetching and decoding at CS:ip (R213, R402), the decode-phase bus events (R233), and
placing an instruction where the next step fetches it. -/

namespace Sys2Proof.Machine

/-! ### The instruction's bytes -/

/-- The flat address of byte `k` of the instruction at CS:ip, modulo 2^20 (R213, R402). -/
def State.fetchAddr (s : State) (k : Nat) : Addr := flat s.cs s.ip + BitVec.ofNat 20 k

/-- Byte `k` of the instruction at CS:ip (R213). -/
def State.code (s : State) : Code := fun k => s.memByte (s.fetchAddr k)

/-- What decoding at CS:ip gives (R346). -/
def State.decoded (s : State) : DecodeResult := decode s.params s.code

/-- The instruction at CS:ip; a rejected encoding is one of them. -/
def State.current (s : State) : Instr := s.decoded.instr s.code

/-! ### Decode-phase events (R233) -/

/-- How many bytes the prefix loop takes, at most `room` (R303, R346). -/
def prefixCount (p : Params) : Nat → Code → Nat
  | 0, _ => 0
  | room + 1, c =>
    match prefixAt p (c 0) with
    | some _ => prefixCount p room (fun k => c (k + 1)) + 1
    | none => 0

/-- The group opcodes (R322). -/
def isGroupOpcode (b : Byte) : Bool :=
  b ∈ [0x80#8, 0x81#8, 0x82#8, 0x83#8, 0xD0#8, 0xD1#8, 0xD2#8, 0xD3#8, 0xF6#8, 0xF7#8, 0xFE#8, 0xFF#8, 0x8F#8,
    0xC6#8, 0xC7#8]

/-- Is the ModRM byte fetched a second time? Only when the group lookup's own look at it was not already
the end of decoding (R233, R346). -/
def refetches : DecodeResult → Bool
  | .ok _ => true
  | .error .invalidOpcode _ => false
  | .error .badModrm _ => true
  | .error .tooLong _ => true

/-- The positions fetched with `DECODE_TRACE = reference`: pass 1 with the group opcode's extra ModRM
fetch, and after a success pass 2 (R233). -/
def referenceTrace (p : Params) (c : Code) (r : DecodeResult) : List Nat :=
  let op := prefixCount p p.maxInsnLen c
  let twice := isGroupOpcode (c op) && refetches r
  let pass1 := (List.range r.read).flatMap fun k => if k = op + 1 ∧ twice = true then [k, k] else [k]
  match r with
  | .ok _ => pass1 ++ List.range r.read
  | .error _ _ => pass1

/-- The positions fetched with `DECODE_TRACE = contained`: a free sequence, of which R233 promises only
that every position is one of the `n` bytes read and that each of those is fetched at least once. -/
def containedTrace (n : Nat) (free : List Nat) : List Nat :=
  let inside := free.filter fun k => decide (k < n)
  inside ++ (List.range n).filter fun k => decide (k ∉ inside)

/-- The positions the decoder fetches, in order (R233). -/
def State.trace (s : State) : List Nat :=
  match s.params.decodeTrace with
  | .contained => containedTrace s.decoded.read (Config.freeTrace s.draws)
  | .reference => referenceTrace s.params s.code s.decoded

/-- The decode-phase events of the step that starts in this state (R231, R233). -/
def State.decodeEvents (s : State) : List BusEvent :=
  s.trace.map fun k => ⟨.fetch, s.fetchAddr k, s.code k⟩

/-- The draws that fetching takes: one for a free sequence. -/
def State.fetchDraws (s : State) : Nat :=
  match s.params.decodeTrace with
  | .contained => 1
  | .reference => 0

/-- Steps 1 and 2: the step's outputs begin with the decode-phase events (R401, R234). -/
def State.fetched (s : State) : State :=
  { s with events := s.decodeEvents, devOut := [], draws := s.draws + s.fetchDraws }

/-! ### Placing an instruction -/

/-- A table word's bytes and then zero bytes, up to the longest instruction, at CS:ip. -/
def State.placeWord (s : State) (nbits w : Nat) : State :=
  let bytes := tableBytes nbits w
  s.loadImage (flat s.cs s.ip) (bytes ++ List.replicate (s.params.maxInsnLen - bytes.length) 0#8)

end Sys2Proof.Machine
end

