-- ==== Sys2Proof/Machine/Step.lean ====
section
/-! DEFINITION. One step (R400, R401). -/

namespace Sys2Proof.Machine

/-- Fetch and decode at CS:ip, then execute. The step's status and bus events are fields of the next state. -/
def step (s : State) : Host.Outcome State Fault Refusal := exec s.current s.fetched

/-- The state with the instruction of a table word stored where `step` fetches next. -/
def State.withFetchWord (s : State) (nbits w : Nat) : State := s.placeWord nbits w

end Sys2Proof.Machine
end

