-- ==== Sys2Proof/Safety.lean ====
section
/-! DEFINITION. What statements about the machine are said in: the invariant of its states, the spec's run
(R408), instructions under a list of prefixes, and what a step may change. -/

namespace Sys2Proof.Machine

/-! ### States -/

/-- The memory is in canonical form and lies inside MEM_SIZE (R204), and the ports are in canonical form
and number 65,536 (R130). -/
def State.inv (s : State) : Bool :=
  Memory.wf s.mem && Memory.below s.params.memSize s.mem && Memory.wf s.ports && Memory.below 65536 s.ports

/-- The spec's run: at most `n` steps, ended after the first whose status is not `continued` (R408). -/
def State.runs : Nat → State → State
  | 0, s => s
  | n + 1, s =>
    match step s with
    | .next t => if t.status = .continued then State.runs n t else t
    | .fault _ => s
    | .refused _ => s

/-- The byte of a port. -/
def State.portByte (s : State) (p : Word) : Byte := Cells.read s.ports p.toNat

/-- Two states agree on the state tuple of R100. -/
def State.sameTuple (s t : State) : Prop :=
  s.ax = t.ax ∧ s.cx = t.cx ∧ s.dx = t.dx ∧ s.bx = t.bx ∧ s.sp = t.sp ∧ s.bp = t.bp ∧ s.si = t.si ∧ s.di = t.di ∧
  s.es = t.es ∧ s.cs = t.cs ∧ s.ss = t.ss ∧ s.ds = t.ds ∧ s.ip = t.ip ∧ s.flags = t.flags ∧ s.mem = t.mem ∧
  s.ports = t.ports

/-- The flat address is one of the memory array's (R204). -/
def State.holds (s : State) (a : Addr) : Prop := a.toNat < s.params.memSize

/-- Both bytes of the word at `seg:off` are in the memory array. -/
def State.holdsWord (s : State) (seg off : Word) : Prop :=
  s.holds (flat seg off) ∧ s.holds (second s.params.wordWrap seg off)

/-- The operand can be written and read back: a register, or memory inside the array (R205, R424). -/
def State.holdsLoc (s : State) : {w : Nat} → Loc w → Prop
  | _, .r8 _ => True
  | _, .r16 _ => True
  | _, .sreg _ => True
  | _, .imm8 _ => False
  | _, .imm16 _ => False
  | _, .mem8 seg off => s.holds (flat seg off)
  | _, .mem16 seg off => s.holdsWord seg off

/-- The word at `seg:off` (R211). -/
def State.word (s : State) (seg off : Word) : Word := (s.segRead16 seg off).1

/-! ### Instructions under prefixes -/

/-- An instruction with these prefixes before it, outermost first. -/
def Prefix.wrapAll (ps : List Prefix) (i : Instr) : Instr := ps.foldr Prefix.wrap i

/-- The parameters let these bytes be prefixes: LOCK needs `LOCK_PREFIX = ignore` (R307). -/
def State.allows (s : State) (ps : List Prefix) : Prop := Prefix.lock ∈ ps → s.params.lockPrefix = .ignore

/-- The profile executes this form (R406); ESC is executed by neither profile. -/
def State.executes (s : State) (i : Instr) : Prop := s.params.execProfile = .full ∨ i.tier = .source

/-- The state at the start of step 4 (R403): ip is past the instruction `i` under the prefixes `ps`. -/
def State.start (s : State) (ps : List Prefix) (i : Instr) : State :=
  (s.advance (ps.length + i.len)).setStatus .continued

/-- The constructors that are prefixes. -/
def isPrefix (i : Instr) : Bool :=
  match i with
  | .es _ => true
  | .cs _ => true
  | .ss _ => true
  | .ds _ => true
  | .rep _ => true
  | .repne _ => true
  | .lock _ => true
  | _ => false

/-- Under every prefix list the parameters allow, in every state whose profile executes `i` and in which
`when` holds of the decode context and the state at the start of step 4, executing `i` answers the next
state that `rule` gives from the two. -/
def RunsWhen (i : Instr) (when : Ins → State → Prop) (rule : Ins → State → State) : Prop :=
  ∀ (ps : List Prefix) (s : State), s.allows ps → s.executes i → when (insAt ps i s) (s.start ps i) →
    exec (Prefix.wrapAll ps i) s = .next (rule (insAt ps i s) (s.start ps i))

/-- `RunsWhen` with no condition. -/
def Runs (i : Instr) (rule : Ins → State → State) : Prop := RunsWhen i (fun _ _ => True) rule

/-- As `Runs`, the next state described by `post`. -/
def RunsTo (i : Instr) (post : Ins → State → State → Prop) : Prop :=
  ∀ (ps : List Prefix) (s : State), s.allows ps → s.executes i →
    ∃ t, exec (Prefix.wrapAll ps i) s = .next t ∧ post (insAt ps i s) (s.start ps i) t

/-- One iteration of a string instruction (R802 to R806), written out from its rule. -/
def stringRule : Instr → Option (Ins → State → State)
  | .movsb => some fun ins u =>
    let v := u.segRead8 (u.sourceSeg ins) u.si
    ((v.2.segWrite8 u.es u.di v.1).setR16 .si (u.adv 1 u.si)).setR16 .di (u.adv 1 u.di)
  | .movsw => some fun ins u =>
    let v := u.segRead16 (u.sourceSeg ins) u.si
    ((v.2.segWrite16 u.es u.di v.1).setR16 .si (u.adv 2 u.si)).setR16 .di (u.adv 2 u.di)
  | .cmpsb => some fun ins u =>
    let a := u.segRead8 (u.sourceSeg ins) u.si
    let b := a.2.segRead8 u.es u.di
    ((b.2.setFlags (subFlags a.1 b.1 false u.flags).2).setR16 .si (u.adv 1 u.si)).setR16 .di (u.adv 1 u.di)
  | .cmpsw => some fun ins u =>
    let a := u.segRead16 (u.sourceSeg ins) u.si
    let b := a.2.segRead16 u.es u.di
    ((b.2.setFlags (subFlags a.1 b.1 false u.flags).2).setR16 .si (u.adv 2 u.si)).setR16 .di (u.adv 2 u.di)
  | .scasb => some fun _ u =>
    let b := u.segRead8 u.es u.di
    (b.2.setFlags (subFlags (u.getR8 .al) b.1 false u.flags).2).setR16 .di (u.adv 1 u.di)
  | .scasw => some fun _ u =>
    let b := u.segRead16 u.es u.di
    (b.2.setFlags (subFlags u.ax b.1 false u.flags).2).setR16 .di (u.adv 2 u.di)
  | .lodsb => some fun ins u =>
    let v := u.segRead8 (u.sourceSeg ins) u.si
    (v.2.setR8 .al v.1).setR16 .si (u.adv 1 u.si)
  | .lodsw => some fun ins u =>
    let v := u.segRead16 (u.sourceSeg ins) u.si
    (v.2.setR16 .ax v.1).setR16 .si (u.adv 2 u.si)
  | .stosb => some fun _ u => (u.segWrite8 u.es u.di (u.getR8 .al)).setR16 .di (u.adv 1 u.di)
  | .stosw => some fun _ u => (u.segWrite16 u.es u.di u.ax).setR16 .di (u.adv 2 u.di)
  | _ => none

/-- The string instructions whose repeat looks at ZF (R801). -/
def comparesStrings (i : Instr) : Bool := decide (i.cls ∈ [.cmpsb, .cmpsw, .scasb, .scasw])

/-- The encodings R350 lists, by the opcode byte and the byte after it, length aside. -/
def listedInvalid (p : Params) (b m : Byte) : Bool :=
  decide (b ∈ [0x0F#8, 0xC0#8, 0xC1#8, 0xC8#8, 0xC9#8, 0xD6#8, 0xF1#8]) || decide (b.toNat / 16 = 6) ||
  (decide (b = 0xF0#8) && decide (p.lockPrefix = .invalid)) ||
  (decide (b.toNat / 4 = 0x34) && decide (regField m = 6#3)) ||
  (decide (b.toNat / 2 = 0x7B) && decide (regField m = 1#3)) ||
  (decide (b = 0xFE#8) && decide (2 ≤ (regField m).toNat)) || (decide (b = 0xFF#8) && decide (regField m = 7#3)) ||
  (decide (b ∈ [0x8F#8, 0xC6#8, 0xC7#8]) && decide (regField m ≠ 0#3)) ||
  (decide (b ∈ [0x8C#8, 0x8E#8]) && decide (4 ≤ (regField m).toNat)) ||
  (decide (b = 0x8E#8) && decide (regField m = 1#3)) ||
  (decide (b ∈ [0x8D#8, 0xC4#8, 0xC5#8]) && decide (modField m = 3#2)) ||
  (decide (b = 0xFF#8) && decide (regField m ∈ [3#3, 5#3]) && decide (modField m = 3#2))

/-! ### What a step may change -/

/-- The nine flags by name (R120). -/
inductive FlagName where
  | CF | PF | AF | ZF | SF | TF | IF | DF | OF
  deriving DecidableEq, Repr

/-- A flag by name. -/
def Flags.get (f : Flags) : FlagName → Bool
  | .CF => f.CF
  | .PF => f.PF
  | .AF => f.AF
  | .ZF => f.ZF
  | .SF => f.SF
  | .TF => f.TF
  | .IF => f.IF
  | .DF => f.DF
  | .OF => f.OF

/-- What an instruction may change, ip and the outputs of the step aside: word registers, byte registers,
segment registers, flags, bytes of memory, ports. -/
structure Footprint where
  words : List Reg16 := []
  halves : List Reg8 := []
  segs : List SReg := []
  flags : List FlagName := []
  bytes : List Addr := []
  ports : List Word := []
  deriving DecidableEq, Repr

/-- Either footprint. -/
def Footprint.join (a b : Footprint) : Footprint :=
  { words := a.words ++ b.words, halves := a.halves ++ b.halves, segs := a.segs ++ b.segs,
    flags := a.flags ++ b.flags, bytes := a.bytes ++ b.bytes, ports := a.ports ++ b.ports }

/-- `t` has everything of `s` outside the footprint: every register (of a byte register's word, the other
half), every flag, every byte of memory, every port, and the parameters. -/
def Keeps (s t : State) (fp : Footprint) : Prop :=
  (∀ r, r ∉ fp.words → (∀ h ∈ fp.halves, Reg8.whole h ≠ r) → t.getR16 r = s.getR16 r) ∧
  (∀ h, h ∉ fp.halves → Reg8.whole h ∉ fp.words → t.getR8 h = s.getR8 h) ∧
  (∀ g, g ∉ fp.segs → t.getSReg g = s.getSReg g) ∧
  (∀ n, n ∉ fp.flags → t.flags.get n = s.flags.get n) ∧
  (∀ a, a ∉ fp.bytes → t.memByte a = s.memByte a) ∧
  (∀ p, p ∉ fp.ports → t.portByte p = s.portByte p) ∧
  t.params = s.params

/-- Under any prefixes, in any state: if executing `i` answers a next state, that state keeps everything
outside the footprint that `fp` gives from the decode context and the state at the start of step 4. -/
def Frame (i : Instr) (fp : Ins → State → Footprint) : Prop :=
  ∀ (ps : List Prefix) (s t : State), exec (Prefix.wrapAll ps i) s = .next t →
    Keeps s t (fp (insAt ps i s) (s.start ps i))

/-- The six status flags (R120). -/
def statusFlags : List FlagName := [.CF, .PF, .AF, .ZF, .SF, .OF]

/-- The two bytes of the word at `seg:off` (R211). -/
def wordAddrs (w : WordWrap) (seg off : Word) : List Addr := [flat seg off, second w seg off]

/-- What writing a resolved operand changes (R424). -/
def writeFootprint (wrap : WordWrap) : {w : Nat} → Loc w → Footprint
  | _, .r8 r => { halves := [r] }
  | _, .r16 r => { words := [r] }
  | _, .sreg g => { segs := [g] }
  | _, .imm8 _ => {}
  | _, .imm16 _ => {}
  | _, .mem8 seg off => { bytes := [flat seg off] }
  | _, .mem16 seg off => { bytes := wordAddrs wrap seg off }

/-- What a push changes, from the state it starts in (R430). -/
def pushFootprint (s : State) : Footprint :=
  { words := [.sp], bytes := wordAddrs s.params.wordWrap s.ss (s.sp - 2) }

/-- What two pushes change. -/
def push2Footprint (s : State) : Footprint :=
  { words := [.sp]
    bytes := wordAddrs s.params.wordWrap s.ss (s.sp - 2) ++ wordAddrs s.params.wordWrap s.ss (s.sp - 4) }

/-- What an interrupt entry changes: SP, CS, IF, TF and the six bytes pushed (R1131). -/
def entryFootprint (s : State) : Footprint :=
  { words := [.sp], segs := [.cs], flags := [.IF, .TF]
    bytes := wordAddrs s.params.wordWrap s.ss (s.sp - 2) ++ wordAddrs s.params.wordWrap s.ss (s.sp - 4) ++
      wordAddrs s.params.wordWrap s.ss (s.sp - 6) }

/-- What a divide error changes: nothing, or what an interrupt entry does (R1121, R1122). -/
def divideErrorFootprint (s : State) : Footprint :=
  match s.params.divErrorMode with
  | .report => {}
  | .vector => entryFootprint s

/-- The count register, for a repeated string instruction (R801). -/
def repeatWords (ins : Ins) : List Reg16 :=
  match ins.rep with
  | none => []
  | some _ => [.cx]

end Sys2Proof.Machine
end

