-- ==== Sys2Proof/Certificates/Slice0/Obligations.lean ====
section
/-! DEFINITION. The statements about the machine that the provers are given, by the rules of the spec they
rest on. `Runs`, `RunsTo`, `Frame` and the rest of their vocabulary are in Sys2Proof/Safety.lean. A
statement `for all` forms or operands takes in the terms no encoding stands for (MOV CS, POP CS, XCHG AX, AX,
a BP without displacement): that they run is the model's choice, log entry 15. -/

open Sys2Proof Sys2Proof.Machine

/-! ### Encoding and decoding -/

/-- For every parameter setting and every instruction that has an encoding within MAX_INSN_LEN, a byte stream
that starts with its encoding decodes to it, whatever bytes follow. (R346, R301, R309.) -/
def Obligations.DecodeOfEncode : Prop :=
  ∀ (p : Params) (i : Instr) (c : Code), i.encodable p = true →
    (∀ k, k < i.len → c k = i.encode.getD k 0#8) → decode p c = .ok i

/-- If decoding succeeds, the bytes of the decoded instruction are the bytes of the stream, as many as its size,
prefixes included; the instruction has an encoding, and its size is at least 1 and at most MAX_INSN_LEN.
(R344.) -/
def Obligations.EncodeOfDecode : Prop :=
  ∀ (p : Params) (c : Code) (i : Instr), decode p c = .ok i →
    i.encode = (List.range i.len).map c ∧ i.wf p = true ∧ 1 ≤ i.len ∧ i.len ≤ p.maxInsnLen

/-- Two byte streams that agree on the bytes a decode reads, under parameters with the same LOCK_PREFIX and
MAX_INSN_LEN, decode to the same result; decoding at CS:ip changes no register, flag, memory byte or port.
(R345.) -/
def Obligations.DecodeReadsOnlyItsBytes : Prop :=
  (∀ (p q : Params) (c d : Code), p.lockPrefix = q.lockPrefix → p.maxInsnLen = q.maxInsnLen →
    (∀ k, k < (decode p c).read → c k = d k) → decode q d = decode p c) ∧
  ∀ s : State, s.fetched.sameTuple s

/-- With MAX_INSN_LEN at least 6 and no prefix byte first, decoding fails exactly when the opcode byte and the
byte after it are in the list of R350, length aside; it then fails for invalid_opcode or bad_modrm. (R350,
R324, R325, R326, R333, R334.) -/
def Obligations.InvalidEncodings : Prop :=
  ∀ (p : Params) (c : Code), 6 ≤ p.maxInsnLen → prefixAt p (c 0) = none →
    ((∃ why n, decode p c = .error why n) ↔ listedInvalid p (c 0) (c 1) = true) ∧
    ∀ why n, decode p c = .error why n → why = .invalidOpcode ∨ why = .badModrm

/-- If the first MAX_INSN_LEN bytes are all prefixes, decoding fails with too_long after reading them; if an
instruction with fewer prefixes than MAX_INSN_LEN is longer than MAX_INSN_LEN, decoding fails with too_long;
one that is not longer decodes. How many bytes such an error reports as read is read off the algorithm of
R346 (the model's reading, log entry 12, DEDUCED). (R309, R346.) -/
def Obligations.LengthLimit : Prop :=
  (∀ (p : Params) (c : Code), (∀ k, k < p.maxInsnLen → (prefixAt p (c k)).isSome = true) →
    decode p c = .error .tooLong p.maxInsnLen) ∧
  ∀ (p : Params) (ps : List Prefix) (i : Instr) (c : Code), isPrefix i = false →
    (Prefix.wrapAll ps i).wf p = true → ps.length < p.maxInsnLen →
    (∀ k, k < ps.length + i.len → c k = (Prefix.wrapAll ps i).encode.getD k 0#8) →
    decode p c = if ps.length + i.len ≤ p.maxInsnLen then .ok (Prefix.wrapAll ps i)
      else .error .tooLong (ps.length + i.len)

/-- One or more words of each family, written out from the opcode map, the ModRM rules and the decodes of
section 1 of the test vectors, decode to the instruction they stand for. (R316, R360, R361,
95_test_vectors.md.) -/
def Obligations.SampleWordsDecode : Prop :=
  decode Params.default (streamOf [0x00#8, 0x1D#8]) = .ok (.add (.ebgb (.mem (.indirect .di)) .bl)) ∧
  decode Params.default (streamOf [0x00#8, 0x47#8, 0xF0#8]) = .ok (.add (.ebgb (.mem (.disp8 .bx 0xF0#8)) .al)) ∧
  decode Params.default (streamOf [0x83#8, 0xC0#8, 0xFF#8]) = .ok (.add (.ewibs (.reg .ax) 0xFF#8)) ∧
  decode Params.default (streamOf [0x31#8, 0xC0#8]) = .ok (.xor (.ewgw (.reg .ax) .ax)) ∧
  decode Params.default (streamOf [0xD3#8, 0xE0#8]) = .ok (.shl (.ewcl (.reg .ax))) ∧
  decode Params.default (streamOf [0x8E#8, 0xC0#8]) = .ok (.mov (.swew .es (.reg .ax))) ∧
  decode Params.default (streamOf [0xC5#8, 0x36#8, 0x00#8, 0x02#8]) = .ok (.lds .si (.direct 0x0200#16)) ∧
  decode Params.default (streamOf [0xF2#8, 0xAE#8]) = .ok (.repne .scasb) ∧
  decode Params.default (streamOf [0x26#8, 0x00#8, 0x1D#8]) = .ok (.es (.add (.ebgb (.mem (.indirect .di)) .bl))) ∧
  decode Params.default (streamOf [0xEA#8, 0x00#8, 0x01#8, 0x00#8, 0x20#8]) = .ok (.jmpf (.ptr 0x2000#16 0x0100#16)) ∧
  decode Params.default (streamOf [0xCD#8, 0x21#8]) = .ok (.int 0x21#8) ∧
  decode Params.default (streamOf [0xED#8]) = .ok (.inp .axdx)

/-! ### The step -/

/-- When the bytes at CS:ip decode to an instruction, the step is the execution of that instruction, in the
state whose only difference is that the bus events and device outputs of the step have begun; the bytes are
those at flat(CS, ip) + k modulo 2^20. (R401, R402, R213.) -/
def Obligations.StepRunsDecodedInstruction : Prop :=
  (∀ (s : State) (i : Instr), s.decoded = .ok i → step s = exec i s.fetched) ∧
  (∀ s : State, s.decoded = decode s.params (fun k => s.memByte (flat s.cs s.ip + BitVec.ofNat 20 k))) ∧
  ∀ s : State, s.fetched.sameTuple s ∧ s.fetched.params = s.params ∧ s.fetched.devOut = [] ∧
    s.fetched.events = s.decodeEvents

/-- Every step, and every execution of an instruction, answers a next state, and the parameters of the run are
those of the state before. The parameters are R1206; that every outcome, the errors among them, is a next
state is the model's choice (log entry 3), since R1100 gives the state after each of them and no access
faults. (R1206, R1100, R1123, R352.) -/
def Obligations.StepAlwaysAnswers : Prop :=
  (∀ s : State, ∃ t, step s = .next t ∧ t.params = s.params) ∧
  ∀ (i : Instr) (s : State), ∃ t, exec i s = .next t ∧ t.params = s.params

/-- When decoding at CS:ip fails, the step changes no register, flag, memory byte or port, ip included; its
status reports the reason, flat(CS, ip) and the bytes read in order; and stepping again gives the same
status and again no change. Executing a rejected encoding, under any prefixes, reports the same with the
prefix bytes first. (R1101, R1100, R352.) -/
def Obligations.DecodeErrorChangesNothing : Prop :=
  (∀ (s : State) (why : DecodeReason) (n : Nat), s.decoded = .error why n →
    ∃ t, step s = .next t ∧ t.sameTuple s ∧
      t.status = .decodeError why (flat s.cs s.ip) ((List.range n).map s.code) ∧
      ∃ u, step t = .next u ∧ u.sameTuple s ∧ u.status = t.status) ∧
  ∀ (ps : List Prefix) (why : DecodeReason) (bytes : List Byte) (s : State), s.allows ps →
    exec (Prefix.wrapAll ps (.invalid why bytes)) s =
      .next (s.setStatus (.decodeError why (flat s.cs s.ip) (ps.map Prefix.byte ++ bytes)))

/-- Whatever status, bus events and device outputs the last step left, the next step is the same. The spec says
so of the bus events (R232); the status and the device outputs are no part of the state either (R100, R135,
R1102), and that the model keeps all three in its State is its choice (log entry 3). (R232, R100, R135,
R1102.) -/
def Obligations.OutputsDoNotMatter : Prop :=
  ∀ (s : State) (x : Status) (es : List BusEvent) (ds : List DeviceOutput),
    step { s with status := x, events := es, devOut := ds } = step s

/-- In every state whose memory is in canonical form inside MEM_SIZE and whose ports are in canonical form below
65,536, the state after a step is such a state. (R204, R205, R130, R100.) -/
def Obligations.StepKeepsInvariant : Prop :=
  ∀ s t : State, s.inv = true → step s = .next t → t.inv = true

/-- The memory and the ports of the reset state are well formed. (R204, R130.) -/
def Obligations.ResetMeetsInvariant : Prop :=
  State.reset.inv = true

/-- The reset state is preset zero of R1203, a choice of this model named in log entry 1: every register,
segment register, ip and flag is 0, every byte of memory and every port is 0x00, and the parameters are the
defaults of R13 except EXEC_PROFILE = full; so pack(F) is 0xF02A. (R140, R1203, R13.) -/
def Obligations.ResetValues : Prop :=
  (∀ r, State.reset.getR16 r = 0#16) ∧ (∀ g, State.reset.getSReg g = 0#16) ∧ State.reset.ip = 0#16 ∧
  (∀ n, State.reset.flags.get n = false) ∧ (∀ a, State.reset.memByte a = 0#8) ∧
  (∀ q, State.reset.portByte q = 0#8) ∧ State.reset.packed = 0xF02A#16 ∧
  State.reset.params = { Params.default with execProfile := .full } ∧ Params.default.memSize = 1048576 ∧
  Params.default.execProfile = .source ∧ Params.default.bpDefaultSegment = .ss ∧
  Params.default.wordWrap = .flat ∧ Params.default.lockPrefix = .invalid ∧
  Params.default.divErrorMode = .report ∧ Params.default.idiv8086Range = true ∧
  Params.default.maxInsnLen = 16 ∧ Params.default.decodeTrace = .contained ∧ Params.default.portDevices = []

/-- With DECODE_TRACE = contained, every decode-phase event is a fetch of one of the bytes decoding reads, with
that byte's value, and each of them is fetched at least once. With DECODE_TRACE = reference and a successful
decode, the fetched positions are those of pass 1 in ascending order, with one extra fetch of the ModRM byte
before its own when the opcode is a group opcode, and then those of pass 2. With DECODE_TRACE = reference
and a decode error, where the first byte that is no prefix is at position j, they are the bytes read up to
the failure in ascending order and no pass 2; the extra fetch of a group opcode's ModRM byte is among them
unless the group lookup itself rejected the instruction (the model's reading, log entry 13, DEDUCED). An
error of a byte stream of prefixes alone fetches each once. (R233, R213, R231, R346, R322.) -/
def Obligations.DecodeEventsLieInside : Prop :=
  (∀ s : State, s.params.decodeTrace = .contained →
    (∀ e ∈ s.decodeEvents, ∃ k, k < s.decoded.read ∧ e = ⟨.fetch, s.fetchAddr k, s.memByte (s.fetchAddr k)⟩) ∧
    ∀ k, k < s.decoded.read → ⟨.fetch, s.fetchAddr k, s.memByte (s.fetchAddr k)⟩ ∈ s.decodeEvents) ∧
  (∀ (s : State) (ps : List Prefix) (i : Instr), s.params.decodeTrace = .reference →
    s.decoded = .ok (Prefix.wrapAll ps i) → isPrefix i = false →
    s.trace =
      (if isGroupOpcode (s.code ps.length) = true then
        List.range (ps.length + 1) ++ [ps.length + 1] ++
          (List.range (ps.length + i.len)).drop (ps.length + 1)
      else List.range (ps.length + i.len)) ++ List.range (ps.length + i.len)) ∧
  (∀ (s : State) (why : DecodeReason) (n j : Nat), s.params.decodeTrace = .reference →
    s.decoded = .error why n → j < s.params.maxInsnLen →
    (∀ k, k < j → (prefixAt s.params (s.code k)).isSome = true) → prefixAt s.params (s.code j) = none →
    s.trace =
      if isGroupOpcode (s.code j) = true ∧ why ≠ .invalidOpcode then
        List.range (j + 1) ++ [j + 1] ++ (List.range n).drop (j + 1)
      else List.range n) ∧
  ∀ s : State, s.params.decodeTrace = .reference →
    (∀ k, k < s.params.maxInsnLen → (prefixAt s.params (s.code k)).isSome = true) →
    s.trace = List.range s.params.maxInsnLen

/-- The bus events of a step are its decode-phase events followed by those of its execution, whatever they are.
(R234, R231.) -/
def Obligations.DecodeEventsComeFirst : Prop :=
  ∀ s t : State, step s = .next t → ∃ es, t.events = s.decodeEvents ++ es

/-! ### Registers, memory and operands -/

/-- Byte register k is the low half of word register k mod 4 when bit 2 of k is 0 and its high half otherwise;
writing one sets that half, leaves every other byte register alone and every word register it is not half
of. (R101.) -/
def Obligations.ByteRegistersAlias : Prop :=
  (∀ s : State, s.getR8 .al = s.ax.extractLsb' 0 8 ∧ s.getR8 .cl = s.cx.extractLsb' 0 8 ∧
    s.getR8 .dl = s.dx.extractLsb' 0 8 ∧ s.getR8 .bl = s.bx.extractLsb' 0 8 ∧ s.getR8 .ah = s.ax.extractLsb' 8 8 ∧
    s.getR8 .ch = s.cx.extractLsb' 8 8 ∧ s.getR8 .dh = s.dx.extractLsb' 8 8 ∧ s.getR8 .bh = s.bx.extractLsb' 8 8) ∧
  (∀ (s : State) (r q : Reg8) (v : Byte), (s.setR8 r v).getR8 q = if q = r then v else s.getR8 q) ∧
  ∀ (s : State) (r : Reg8) (q : Reg16) (v : Byte), q ∉ [Reg16.ax, .cx, .dx, .bx] →
    (s.setR8 r v).getR16 q = s.getR16 q

/-- The packed word is FLAGS_FIXED_ONES together with the nine flags at their positions, its other bits 0.
Unpacking takes the nine flags from bits 0, 2, 4, 6, 7, 8, 9, 10 and 11 of the word; unpacking a packed
flags word gives the flags back when the fixed ones leave the nine named bits alone, and packing an unpacked
word gives the word with the fixed ones set when they cover exactly the reserved bits. (R122, R123.) -/
def Obligations.FlagsPackAndUnpack : Prop :=
  (∀ s : State, s.packed = s.flags.pack s.params.flagsFixedOnes) ∧
  (∀ (ones : Word) (f : Flags), f.pack ones = ones ||| f.pack 0#16 ∧ f.pack 0#16 &&& 0xF02A#16 = 0#16) ∧
  (∀ v : Word, let f := Flags.unpack v
    f.CF = v.getLsbD 0 ∧ f.PF = v.getLsbD 2 ∧ f.AF = v.getLsbD 4 ∧ f.ZF = v.getLsbD 6 ∧ f.SF = v.getLsbD 7 ∧
    f.TF = v.getLsbD 8 ∧ f.IF = v.getLsbD 9 ∧ f.DF = v.getLsbD 10 ∧ f.OF = v.getLsbD 11) ∧
  (∀ (ones : Word) (f : Flags), ones &&& 0x0FD5#16 = 0#16 → Flags.unpack (f.pack ones) = f) ∧
  ∀ v : Word, (Flags.unpack v).pack 0xF02A#16 = v ||| 0xF02A#16

/-- A flat address is seg * 16 + off modulo 2^20; an effective address is the sum of the registers of its
combination and its displacement modulo 2^16; a memory operand uses the override if there is one, else
BP_DEFAULT_SEGMENT for the BP-based combinations and DS for the others and for the direct form; the second
byte of a word is the next flat address, or the next offset of the segment, by WORD_WRAP. Every form names
its operands in the order of its table row, destination first: the r/m operand, the register of the reg
field, the fixed register, the direct offset or the immediate, at the form's width, the immediate byte of
0x83 sign-extended. (R201, R420, R421, R312, R211, R423, R330, R331, R335, R338, R440, R323.) -/
def Obligations.AddressesAndSegments : Prop :=
  (∀ seg off : Word, (flat seg off).toNat = (seg.toNat * 16 + off.toNat) % 1048576) ∧
  (∀ s : State, s.baseSum .bxsi = s.bx + s.si ∧ s.baseSum .bxdi = s.bx + s.di ∧ s.baseSum .bpsi = s.bp + s.si ∧
    s.baseSum .bpdi = s.bp + s.di ∧ s.baseSum .si = s.si ∧ s.baseSum .di = s.di ∧ s.baseSum .bp = s.bp ∧
    s.baseSum .bx = s.bx) ∧
  (∀ (s : State) (b : Base) (d : Byte) (w : Word), s.ea (.indirect b) = s.baseSum b ∧
    s.ea (.disp8 b d) = s.baseSum b + d.signExtend 16 ∧ s.ea (.disp16 b w) = s.baseSum b + w ∧ s.ea (.direct w) = w) ∧
  (∀ (p : Params) (ins : Ins) (m : MemOp) (g : SReg), ins.seg = some g → segOf p ins m = g) ∧
  (∀ (p : Params) (ins : Ins) (b : Base) (d : Byte) (w : Word), ins.seg = none →
    segOf p ins (.direct w) = .ds ∧ segOf p ins (.indirect b) = segOf p ins (.disp8 b d) ∧
    segOf p ins (.disp8 b d) = segOf p ins (.disp16 b w) ∧
    segOf p ins (.disp8 b d) =
      if b ∈ [Base.bpsi, .bpdi, .bp] then (match p.bpDefaultSegment with | .ss => .ss | .ds => .ds) else .ds) ∧
  (∀ seg off : Word, second .flat seg off = flat seg off + 1 ∧ second .segment seg off = flat seg (off + 1)) ∧
  ∀ (ins : Ins) (s : State),
    s.sourceSeg ins = s.getSReg (ins.seg.getD .ds) ∧
    (∀ m : MemOp, s.opSeg ins m = s.getSReg (segOf s.params ins m)) ∧
    (∀ r, ebLoc ins s (.reg r) = .r8 r) ∧ (∀ r, ewLoc ins s (.reg r) = .r16 r) ∧
    (∀ m : MemOp, ebLoc ins s (.mem m) = .mem8 (s.opSeg ins m) (s.ea m) ∧
      ewLoc ins s (.mem m) = .mem16 (s.opSeg ins m) (s.ea m)) ∧
    (∀ (e : Rm Reg8) (g : Reg8),
      aluPair ins s (.ebgb e g) = ⟨8, ebLoc ins s e, .r8 g⟩ ∧ aluPair ins s (.gbeb g e) = ⟨8, .r8 g, ebLoc ins s e⟩ ∧
      testPair ins s (.ebgb e g) = ⟨8, ebLoc ins s e, .r8 g⟩ ∧ xchgPair ins s (.ebgb e g) = ⟨8, ebLoc ins s e, .r8 g⟩ ∧
      movPair ins s (.ebgb e g) = ⟨8, ebLoc ins s e, .r8 g⟩ ∧ movPair ins s (.gbeb g e) = ⟨8, .r8 g, ebLoc ins s e⟩) ∧
    (∀ (e : Rm Reg16) (g : Reg16),
      aluPair ins s (.ewgw e g) = ⟨16, ewLoc ins s e, .r16 g⟩ ∧ aluPair ins s (.gwew g e) = ⟨16, .r16 g, ewLoc ins s e⟩ ∧
      testPair ins s (.ewgw e g) = ⟨16, ewLoc ins s e, .r16 g⟩ ∧ xchgPair ins s (.ewgw e g) = ⟨16, ewLoc ins s e, .r16 g⟩ ∧
      movPair ins s (.ewgw e g) = ⟨16, ewLoc ins s e, .r16 g⟩ ∧ movPair ins s (.gwew g e) = ⟨16, .r16 g, ewLoc ins s e⟩) ∧
    (∀ (e : Rm Reg16) (g : SReg), movPair ins s (.ewsw e g) = ⟨16, ewLoc ins s e, .sreg g⟩ ∧
      movPair ins s (.swew g e) = ⟨16, .sreg g, ewLoc ins s e⟩) ∧
    (∀ v : Byte, aluPair ins s (.alib v) = ⟨8, .r8 .al, .imm8 v⟩ ∧ testPair ins s (.alib v) = ⟨8, .r8 .al, .imm8 v⟩) ∧
    (∀ v : Word, aluPair ins s (.axiw v) = ⟨16, .r16 .ax, .imm16 v⟩ ∧
      testPair ins s (.axiw v) = ⟨16, .r16 .ax, .imm16 v⟩) ∧
    (∀ (e : Rm Reg8) (v : Byte),
      aluPair ins s (.ebib e v) = ⟨8, ebLoc ins s e, .imm8 v⟩ ∧ aluPair ins s (.ebibAlias e v) = ⟨8, ebLoc ins s e, .imm8 v⟩ ∧
      testPair ins s (.ebib e v) = ⟨8, ebLoc ins s e, .imm8 v⟩ ∧ movPair ins s (.ebib e v) = ⟨8, ebLoc ins s e, .imm8 v⟩) ∧
    (∀ (e : Rm Reg16) (v : Word),
      aluPair ins s (.ewiw e v) = ⟨16, ewLoc ins s e, .imm16 v⟩ ∧ testPair ins s (.ewiw e v) = ⟨16, ewLoc ins s e, .imm16 v⟩ ∧
      movPair ins s (.ewiw e v) = ⟨16, ewLoc ins s e, .imm16 v⟩) ∧
    (∀ (e : Rm Reg16) (v : Byte), aluPair ins s (.ewibs e v) = ⟨16, ewLoc ins s e, .imm16 (v.signExtend 16)⟩) ∧
    (∀ off : Word,
      movPair ins s (.alob off) = ⟨8, .r8 .al, .mem8 (s.getSReg (ins.seg.getD .ds)) off⟩ ∧
      movPair ins s (.axow off) = ⟨16, .r16 .ax, .mem16 (s.getSReg (ins.seg.getD .ds)) off⟩ ∧
      movPair ins s (.obal off) = ⟨8, .mem8 (s.getSReg (ins.seg.getD .ds)) off, .r8 .al⟩ ∧
      movPair ins s (.owax off) = ⟨16, .mem16 (s.getSReg (ins.seg.getD .ds)) off, .r16 .ax⟩) ∧
    (∀ (r : Reg8) (v : Byte), movPair ins s (.r8ib r v) = ⟨8, .r8 r, .imm8 v⟩) ∧
    (∀ (r : Reg16) (v : Word), movPair ins s (.r16iw r v) = ⟨16, .r16 r, .imm16 v⟩) ∧
    (∀ r : Reg16, xchgPair ins s (.axr16 r) = ⟨16, .r16 .ax, .r16 r⟩ ∧ incOperand ins s (.r16 r) = ⟨16, .r16 r⟩ ∧
      stackLoc ins s (.r16 r) = .r16 r) ∧
    (∀ e : Rm Reg8, incOperand ins s (.eb e) = ⟨8, ebLoc ins s e⟩ ∧ unOperand ins s (.eb e) = ⟨8, ebLoc ins s e⟩ ∧
      shiftOperand ins s (.eb1 e) = ⟨8, ebLoc ins s e⟩ ∧ shiftOperand ins s (.ebcl e) = ⟨8, ebLoc ins s e⟩) ∧
    (∀ e : Rm Reg16, incOperand ins s (.ew e) = ⟨16, ewLoc ins s e⟩ ∧ unOperand ins s (.ew e) = ⟨16, ewLoc ins s e⟩ ∧
      shiftOperand ins s (.ew1 e) = ⟨16, ewLoc ins s e⟩ ∧ shiftOperand ins s (.ewcl e) = ⟨16, ewLoc ins s e⟩ ∧
      stackLoc ins s (.ew e) = ewLoc ins s e) ∧
    ∀ g : SReg, stackLoc ins s (.sreg g) = .sreg g

/-- When both bytes are in the memory array, after a word write a byte read of either address gives that byte of
the word and a word read gives the word; after two byte writes a word read gives their concatenation; every
other byte reads as before. (R214.) -/
def Obligations.MixedWidthAccesses : Prop :=
  ∀ (s : State) (seg off v : Word), s.holdsWord seg off →
    (let t := s.segWrite16 seg off v
     t.memByte (flat seg off) = v.extractLsb' 0 8 ∧ t.memByte (second s.params.wordWrap seg off) = v.extractLsb' 8 8 ∧
     t.word seg off = v ∧
     ∀ a, a ∉ wordAddrs s.params.wordWrap seg off → t.memByte a = s.memByte a) ∧
    ∀ lo hi : Byte,
      ((s.memWrite (flat seg off) lo).memWrite (second s.params.wordWrap seg off) hi).word seg off = hi ++ lo

/-- At an address that is not in the memory array a read yields 0x00 and a write changes nothing, and both are
recorded, the read with value 0x00 and the write with the value written. (R205.) -/
def Obligations.OutOfRangeAccesses : Prop :=
  ∀ (s : State) (a : Addr) (v : Byte), ¬ s.holds a →
    s.memRead a = (0#8, { s with events := s.events ++ [⟨.fetch, a, 0#8⟩] }) ∧
    s.memWrite a v = { s with events := s.events ++ [⟨.store, a, v⟩] }

/-- For every register operand, and every memory operand whose bytes are in the memory array, reading it after
writing a value gives that value. Reading a register or an immediate gives it and changes nothing; reading
memory gives the byte, or the word of the two bytes, and records one fetch, or two with the low byte's
first; writing memory is a store of the byte, or of the low and then the high byte, each recorded and
changing no other byte; writing a word or segment register changes no other one. (R423, R424, R101, R102,
R110, R211, R206, R207, R231.) -/
def Obligations.OperandWriteThenRead : Prop :=
  (∀ (s : State) (w : Nat) (l : Loc w) (v : BitVec w), s.holdsLoc l → ((s.write l v).read l).1 = v) ∧
  (∀ s : State, s.getR16 .ax = s.ax ∧ s.getR16 .cx = s.cx ∧ s.getR16 .dx = s.dx ∧ s.getR16 .bx = s.bx ∧
    s.getR16 .sp = s.sp ∧ s.getR16 .bp = s.bp ∧ s.getR16 .si = s.si ∧ s.getR16 .di = s.di ∧
    s.getSReg .es = s.es ∧ s.getSReg .cs = s.cs ∧ s.getSReg .ss = s.ss ∧ s.getSReg .ds = s.ds) ∧
  (∀ (s : State) (r q : Reg16) (v : Word), (s.setR16 r v).getR16 q = if q = r then v else s.getR16 q) ∧
  (∀ (s : State) (g h : SReg) (v : Word), (s.setSReg g v).getSReg h = if h = g then v else s.getSReg h) ∧
  (∀ (s : State) (r : Reg8) (q : Reg16) (g : SReg) (v : Byte) (w : Word),
    s.read (.r8 r) = (s.getR8 r, s) ∧ s.read (.r16 q) = (s.getR16 q, s) ∧ s.read (.sreg g) = (s.getSReg g, s) ∧
    s.read (.imm8 v) = (v, s) ∧ s.read (.imm16 w) = (w, s) ∧
    s.write (.r8 r) v = s.setR8 r v ∧ s.write (.r16 q) w = s.setR16 q w ∧ s.write (.sreg g) w = s.setSReg g w) ∧
  (∀ (s : State) (seg off : Word),
    let a := flat seg off
    let b := second s.params.wordWrap seg off
    s.read (.mem8 seg off) = (s.memByte a, { s with events := s.events ++ [⟨.fetch, a, s.memByte a⟩] }) ∧
    s.read (.mem16 seg off) = (s.memByte b ++ s.memByte a,
      { s with events := s.events ++ [⟨.fetch, a, s.memByte a⟩, ⟨.fetch, b, s.memByte b⟩] }) ∧
    (∀ v : Byte, s.write (.mem8 seg off) v = s.memWrite a v) ∧
    ∀ v : Word, s.write (.mem16 seg off) v = (s.memWrite a (v.extractLsb' 0 8)).memWrite b (v.extractLsb' 8 8)) ∧
  ∀ (s : State) (a : Addr) (v : Byte), (s.memWrite a v).events = s.events ++ [⟨.store, a, v⟩] ∧
    (s.holds a → (s.memWrite a v).memByte a = v) ∧ (∀ b, b ≠ a → (s.memWrite a v).memByte b = s.memByte b) ∧
    s.memWrite a v = { s with mem := (s.memWrite a v).mem, events := (s.memWrite a v).events }

/-- When the two bytes of the stack slot are in the memory array, a pop after a push returns the word pushed and
leaves SP as it was, SP wrapping included. (R432, R430, R431, R205.) -/
def Obligations.PushThenPop : Prop :=
  ∀ (s : State) (v : Word), s.holdsWord s.ss (s.sp - 2) →
    (s.push16 v).pop16.1 = v ∧ (s.push16 v).pop16.2.sp = s.sp

/-! ### Flags and conditions -/

/-- PF of a result tells that its low eight bits hold an even number of ones, whatever its width. For widths
above 4, adding with carry in: the result is the sum modulo 2^w; CF tells that the sum does not fit, AF that
the low four bits carry, OF that the signed sum does not fit; ZF tells that the result is 0, SF is its top
bit, and PF is so computed; the control flags do not change. (R452, R450, R451.) -/
def Obligations.AdditionFlags : Prop :=
  (∀ (w : Nat) (r : BitVec w) (f : Flags),
    parity r = decide (((List.range 8).filter fun k => r.getLsbD k).length % 2 = 0) ∧
    szp r f = { f with SF := r.msb, ZF := decide (r = 0#w), PF := parity r }) ∧
  ∀ (w : Nat) (a b : BitVec w) (c : Bool) (f : Flags), 4 < w →
    let x := addFlags a b c f
    x.1.toNat = (a.toNat + b.toNat + c.toNat) % 2 ^ w ∧
    x.2.CF = decide (2 ^ w ≤ a.toNat + b.toNat + c.toNat) ∧
    x.2.AF = decide (15 < a.toNat % 16 + b.toNat % 16 + c.toNat) ∧
    x.2.OF = decide (¬ (-(2 ^ (w - 1) : Int) ≤ a.toInt + b.toInt + c.toNat ∧
      a.toInt + b.toInt + c.toNat < 2 ^ (w - 1))) ∧
    x.2.ZF = decide (x.1 = 0#w) ∧ x.2.SF = x.1.msb ∧
    x.2.PF = decide (((List.range 8).filter fun k => x.1.getLsbD k).length % 2 = 0) ∧
    x.2.TF = f.TF ∧ x.2.IF = f.IF ∧ x.2.DF = f.DF

/-- For widths above 4, subtracting with borrow in: the result is the difference modulo 2^w; CF tells that it is
negative, AF that the low four bits borrow, OF that the signed difference does not fit; ZF tells that the
result is 0, SF is its top bit, and PF tells that its low eight bits hold an even number of ones; the
control flags do not change. (R453, R450, R451.) -/
def Obligations.SubtractionFlags : Prop :=
  ∀ (w : Nat) (a b : BitVec w) (c : Bool) (f : Flags), 4 < w →
    let x := subFlags a b c f
    (x.1.toNat : Int) = ((a.toNat : Int) - b.toNat - c.toNat) % 2 ^ w ∧
    x.2.CF = decide (a.toNat < b.toNat + c.toNat) ∧
    x.2.AF = decide (a.toNat % 16 < b.toNat % 16 + c.toNat) ∧
    x.2.OF = decide (¬ (-(2 ^ (w - 1) : Int) ≤ a.toInt - b.toInt - c.toNat ∧
      a.toInt - b.toInt - c.toNat < 2 ^ (w - 1))) ∧
    x.2.ZF = decide (x.1 = 0#w) ∧ x.2.SF = x.1.msb ∧
    x.2.PF = decide (((List.range 8).filter fun k => x.1.getLsbD k).length % 2 = 0) ∧
    x.2.TF = f.TF ∧ x.2.IF = f.IF ∧ x.2.DF = f.DF

/-- After the flags of a - b: the unsigned and signed order conditions and equality hold exactly when a and b
are so ordered, and each odd condition is the negation of the even one before it. (R460, R453.) -/
def Obligations.ConditionsAfterCompare : Prop :=
  (∀ (w : Nat) (a b : BitVec w) (g : Flags), 0 < w →
    let f := (subFlags a b false g).2
    condB f = decide (a.toNat < b.toNat) ∧ condBE f = decide (a.toNat ≤ b.toNat) ∧ condZ f = decide (a = b) ∧
    condL f = decide (a.toInt < b.toInt) ∧ condLE f = decide (a.toInt ≤ b.toInt)) ∧
  ∀ f : Flags, condNO f = !condO f ∧ condNB f = !condB f ∧ condNZ f = !condZ f ∧ condA f = !condBE f ∧
    condNS f = !condS f ∧ condNP f = !condP f ∧ condNL f = !condL f ∧ condG f = !condLE f

/-! ### Results of the instructions -/

/-- In every form and under every prefix list, ADD, ADC, SUB and SBB read op1 and op2, write the sum or
difference (with carry or borrow for ADC and SBB) to op1 and set the six flags by the addition or
subtraction rules; CMP sets the flags of the difference and writes nothing else. (R501, R502, R503, R504,
R505.) -/
def Obligations.AluArithmeticResults : Prop :=
  ∀ f : AluForm,
    Runs (.add f) (fun ins u =>
      let p := aluPair ins u f
      let a := u.read p.dst
      let b := a.2.read p.src
      (b.2.setFlags (addFlags a.1 b.1 false u.flags).2).write p.dst (a.1 + b.1)) ∧
    Runs (.adc f) (fun ins u =>
      let p := aluPair ins u f
      let a := u.read p.dst
      let b := a.2.read p.src
      (b.2.setFlags (addFlags a.1 b.1 u.flags.CF u.flags).2).write p.dst
        (a.1 + b.1 + BitVec.ofNat p.w u.flags.CF.toNat)) ∧
    Runs (.sub f) (fun ins u =>
      let p := aluPair ins u f
      let a := u.read p.dst
      let b := a.2.read p.src
      (b.2.setFlags (subFlags a.1 b.1 false u.flags).2).write p.dst (a.1 - b.1)) ∧
    Runs (.sbb f) (fun ins u =>
      let p := aluPair ins u f
      let a := u.read p.dst
      let b := a.2.read p.src
      (b.2.setFlags (subFlags a.1 b.1 u.flags.CF u.flags).2).write p.dst
        (a.1 - b.1 - BitVec.ofNat p.w u.flags.CF.toNat)) ∧
    Runs (.cmp f) (fun ins u =>
      let p := aluPair ins u f
      let a := u.read p.dst
      let b := a.2.read p.src
      b.2.setFlags (subFlags a.1 b.1 false u.flags).2)

/-- In every form and under every prefix list, INC and DEC write op1 plus or minus one with CF kept and the
other five status flags set by the addition or subtraction rules, NEG writes the negation with the flags of
0 - op1, and NOT writes the complement and changes no flag. (R506, R507, R508, R605.) -/
def Obligations.UnaryArithmeticResults : Prop :=
  (∀ f : IncForm,
    Runs (.inc f) (fun ins u =>
      let o := incOperand ins u f
      let a := u.read o.loc
      (a.2.setFlags { (addFlags a.1 1 false u.flags).2 with CF := u.flags.CF }).write o.loc (a.1 + 1)) ∧
    Runs (.dec f) (fun ins u =>
      let o := incOperand ins u f
      let a := u.read o.loc
      (a.2.setFlags { (subFlags a.1 1 false u.flags).2 with CF := u.flags.CF }).write o.loc (a.1 - 1))) ∧
  ∀ f : UnForm,
    Runs (.neg f) (fun ins u =>
      let o := unOperand ins u f
      let a := u.read o.loc
      (a.2.setFlags (subFlags (0#o.w) a.1 false u.flags).2).write o.loc (-a.1)) ∧
    Runs (.not f) (fun ins u =>
      let o := unOperand ins u f
      let a := u.read o.loc
      a.2.write o.loc (~~~ a.1))

/-- The byte forms leave in AX, and the word forms in DX:AX, the exact unsigned or signed product of the
accumulator and the operand; CF and OF tell that the high half of the unsigned product is not zero, or that
the signed product does not fit the low half. (R509, R510.) -/
def Obligations.MultiplyResults : Prop :=
  (∀ e : Rm Reg8,
    RunsTo (.mul (.eb e)) (fun ins u t =>
      t.ax.toNat = (u.getR8 .al).toNat * (u.read (ebLoc ins u e)).1.toNat ∧
      t.flags.CF = decide (t.getR8 .ah ≠ 0#8) ∧ t.flags.OF = t.flags.CF ∧ t.status = .continued ∧ t.ip = u.ip) ∧
    RunsTo (.imul (.eb e)) (fun ins u t =>
      t.ax.toInt = (u.getR8 .al).toInt * (u.read (ebLoc ins u e)).1.toInt ∧
      t.flags.CF = decide (¬ (-128 ≤ t.ax.toInt ∧ t.ax.toInt ≤ 127)) ∧ t.flags.OF = t.flags.CF ∧
      t.status = .continued ∧ t.ip = u.ip)) ∧
  ∀ e : Rm Reg16,
    RunsTo (.mul (.ew e)) (fun ins u t =>
      (t.dx ++ t.ax).toNat = u.ax.toNat * (u.read (ewLoc ins u e)).1.toNat ∧
      t.flags.CF = decide (t.dx ≠ 0#16) ∧ t.flags.OF = t.flags.CF ∧ t.status = .continued ∧ t.ip = u.ip) ∧
    RunsTo (.imul (.ew e)) (fun ins u t =>
      (t.dx ++ t.ax).toInt = u.ax.toInt * (u.read (ewLoc ins u e)).1.toInt ∧
      t.flags.CF = decide (¬ (-32768 ≤ (t.dx ++ t.ax).toInt ∧ (t.dx ++ t.ax).toInt ≤ 32767)) ∧
      t.flags.OF = t.flags.CF ∧ t.status = .continued ∧ t.ip = u.ip)

/-- A zero divisor raises divide_by_zero; otherwise a quotient outside the range (for IDIV, with the least
quotient that IDIV_8086_RANGE gives) raises quotient_overflow; otherwise the quotient, truncated toward zero
for IDIV, and the remainder are left in AL and AH or in AX and DX. (R511, R512.) -/
def Obligations.DivideResults : Prop :=
  (∀ e : Rm Reg8,
    RunsTo (.div (.eb e)) (fun ins u t =>
      let b := u.read (ebLoc ins u e)
      let n := u.ax.toNat
      let d := b.1.toNat
      (d = 0 → t = b.2.divideError .divideByZero ins) ∧
      (d ≠ 0 → 0xFF < n / d → t = b.2.divideError .quotientOverflow ins) ∧
      (d ≠ 0 → n / d ≤ 0xFF → (t.getR8 .al).toNat = n / d ∧ (t.getR8 .ah).toNat = n % d ∧
        t.status = .continued ∧ t.ip = u.ip)) ∧
    RunsTo (.idiv (.eb e)) (fun ins u t =>
      let b := u.read (ebLoc ins u e)
      let n := u.ax.toInt
      let d := b.1.toInt
      let lo : Int := if u.params.idiv8086Range then -127 else -128
      (d = 0 → t = b.2.divideError .divideByZero ins) ∧
      (d ≠ 0 → (n.tdiv d < lo ∨ 127 < n.tdiv d) → t = b.2.divideError .quotientOverflow ins) ∧
      (d ≠ 0 → lo ≤ n.tdiv d → n.tdiv d ≤ 127 → (t.getR8 .al).toInt = n.tdiv d ∧
        (t.getR8 .ah).toInt = n - n.tdiv d * d ∧ t.status = .continued ∧ t.ip = u.ip))) ∧
  ∀ e : Rm Reg16,
    RunsTo (.div (.ew e)) (fun ins u t =>
      let b := u.read (ewLoc ins u e)
      let n := (u.dx ++ u.ax).toNat
      let d := b.1.toNat
      (d = 0 → t = b.2.divideError .divideByZero ins) ∧
      (d ≠ 0 → 0xFFFF < n / d → t = b.2.divideError .quotientOverflow ins) ∧
      (d ≠ 0 → n / d ≤ 0xFFFF → t.ax.toNat = n / d ∧ t.dx.toNat = n % d ∧ t.status = .continued ∧ t.ip = u.ip)) ∧
    RunsTo (.idiv (.ew e)) (fun ins u t =>
      let b := u.read (ewLoc ins u e)
      let n := (u.dx ++ u.ax).toInt
      let d := b.1.toInt
      let lo : Int := if u.params.idiv8086Range then -32767 else -32768
      (d = 0 → t = b.2.divideError .divideByZero ins) ∧
      (d ≠ 0 → (n.tdiv d < lo ∨ 32767 < n.tdiv d) → t = b.2.divideError .quotientOverflow ins) ∧
      (d ≠ 0 → lo ≤ n.tdiv d → n.tdiv d ≤ 32767 → t.ax.toInt = n.tdiv d ∧
        t.dx.toInt = n - n.tdiv d * d ∧ t.status = .continued ∧ t.ip = u.ip))

/-- With DIV_ERROR_MODE = report a divide error changes only the status, which gives the cause, the class and
the address; with vector it is interrupt entry 0. AAM with base 0 raises divide_by_zero. (R1120, R1121,
R1122, R517, R1131.) -/
def Obligations.DivideErrorModes : Prop :=
  (∀ (s : State) (cause : DivCause) (ins : Ins), s.params.divErrorMode = .report →
    s.divideError cause ins = { s with status := .divideError cause ins.cls ins.start }) ∧
  (∀ (s : State) (cause : DivCause) (ins : Ins), s.params.divErrorMode = .vector →
    s.divideError cause ins = s.interruptEntry 0#8) ∧
  Runs (.aam 0#8) (fun ins u => u.divideError .divideByZero ins)

/-- The decimal and ASCII adjustments leave in AL and AH the values, and in CF, AF, SF, ZF and PF the flags,
that their rules fix; AAM divides AL by a base that is not zero and AAD multiplies AH by the base and adds
AL; CBW and CWD extend the sign of AL into AX and of AX into DX and change no flag. (R513, R514, R515, R516,
R517, R518, R519, R520.) -/
def Obligations.AdjustAndExtendResults : Prop :=
  RunsTo .daa (fun _ u t =>
    let low := decide (9 < (u.getR8 .al).toNat % 16) || u.flags.AF
    let high := decide (0x99 < (u.getR8 .al).toNat) || u.flags.CF
    t.getR8 .al = u.getR8 .al + (if low then 6#8 else 0#8) + (if high then 0x60#8 else 0#8) ∧
    t.flags.CF = high ∧ t.flags.AF = low ∧ t.flags.SF = (t.getR8 .al).msb ∧
    t.flags.ZF = decide (t.getR8 .al = 0#8) ∧ t.flags.PF = parity (t.getR8 .al) ∧ t.ip = u.ip ∧
    t.status = .continued) ∧
  RunsTo .das (fun _ u t =>
    let low := decide (9 < (u.getR8 .al).toNat % 16) || u.flags.AF
    let high := decide (0x99 < (u.getR8 .al).toNat) || u.flags.CF
    t.getR8 .al = u.getR8 .al - (if low then 6#8 else 0#8) - (if high then 0x60#8 else 0#8) ∧
    t.flags.CF = high ∧ t.flags.AF = low ∧ t.flags.SF = (t.getR8 .al).msb ∧
    t.flags.ZF = decide (t.getR8 .al = 0#8) ∧ t.flags.PF = parity (t.getR8 .al) ∧ t.ip = u.ip ∧
    t.status = .continued) ∧
  RunsTo .aaa (fun _ u t =>
    let low := decide (9 < (u.getR8 .al).toNat % 16) || u.flags.AF
    t.getR8 .al = (u.getR8 .al + (if low then 6#8 else 0#8)) &&& 0x0F#8 ∧
    t.getR8 .ah = u.getR8 .ah + (if low then 1#8 else 0#8) ∧ t.flags.AF = low ∧ t.flags.CF = low ∧ t.ip = u.ip ∧
    t.status = .continued) ∧
  RunsTo .aas (fun _ u t =>
    let low := decide (9 < (u.getR8 .al).toNat % 16) || u.flags.AF
    t.getR8 .al = (u.getR8 .al - (if low then 6#8 else 0#8)) &&& 0x0F#8 ∧
    t.getR8 .ah = u.getR8 .ah - (if low then 1#8 else 0#8) ∧ t.flags.AF = low ∧ t.flags.CF = low ∧ t.ip = u.ip ∧
    t.status = .continued) ∧
  (∀ n : Byte, n ≠ 0#8 → RunsTo (.aam n) (fun _ u t =>
    (t.getR8 .ah).toNat = (u.getR8 .al).toNat / n.toNat ∧ (t.getR8 .al).toNat = (u.getR8 .al).toNat % n.toNat ∧
    t.flags.SF = (t.getR8 .al).msb ∧ t.flags.ZF = decide (t.getR8 .al = 0#8) ∧
    t.flags.PF = parity (t.getR8 .al) ∧ t.ip = u.ip ∧ t.status = .continued)) ∧
  (∀ n : Byte, RunsTo (.aad n) (fun _ u t =>
    (t.getR8 .al).toNat = ((u.getR8 .al).toNat + (u.getR8 .ah).toNat * n.toNat) % 256 ∧ t.getR8 .ah = 0#8 ∧
    t.flags.SF = (t.getR8 .al).msb ∧ t.flags.ZF = decide (t.getR8 .al = 0#8) ∧
    t.flags.PF = parity (t.getR8 .al) ∧ t.ip = u.ip ∧ t.status = .continued)) ∧
  Runs .cbw (fun _ u => { u with ax := (u.getR8 .al).signExtend 16 }) ∧
  Runs .cwd (fun _ u => { u with dx := if u.ax.getLsbD 15 then 0xFFFF#16 else 0x0000#16 })

/-- In every form and under every prefix list, AND, OR and XOR write the bitwise result to op1, clear CF and OF,
set SF, ZF and PF from the result and leave AF a free value; TEST sets the same flags from the AND of its
operands and writes nothing else. (R601, R602, R603, R604, R454.) -/
def Obligations.LogicResults : Prop :=
  (∀ f : AluForm,
    Runs (.and f) (fun ins u =>
      let p := aluPair ins u f
      let a := u.read p.dst
      let b := a.2.read p.src
      let r := a.1 &&& b.1
      let x := { u.flags with
        CF := false, OF := false, SF := r.msb, ZF := decide (r = 0#p.w), PF := parity r }
      ((b.2.setFlags x).drawFlag .AF).write p.dst r) ∧
    Runs (.or f) (fun ins u =>
      let p := aluPair ins u f
      let a := u.read p.dst
      let b := a.2.read p.src
      let r := a.1 ||| b.1
      let x := { u.flags with
        CF := false, OF := false, SF := r.msb, ZF := decide (r = 0#p.w), PF := parity r }
      ((b.2.setFlags x).drawFlag .AF).write p.dst r) ∧
    Runs (.xor f) (fun ins u =>
      let p := aluPair ins u f
      let a := u.read p.dst
      let b := a.2.read p.src
      let r := a.1 ^^^ b.1
      let x := { u.flags with
        CF := false, OF := false, SF := r.msb, ZF := decide (r = 0#p.w), PF := parity r }
      ((b.2.setFlags x).drawFlag .AF).write p.dst r)) ∧
  ∀ f : TestForm,
    Runs (.test f) (fun ins u =>
      let p := testPair ins u f
      let a := u.read p.dst
      let b := a.2.read p.src
      let r := a.1 &&& b.1
      let x := { u.flags with
        CF := false, OF := false, SF := r.msb, ZF := decide (r = 0#p.w), PF := parity r }
      (b.2.setFlags x).drawFlag .AF)

/-- For every width above 0 and every count n: repeated ROL and ROR steps are rotations by n, RCL and RCR steps
rotate the w + 1 bits of carry and value, SHL, SHR and SAR steps are shifts by n (SAR keeping the sign); for
n at least 1 the carry is the last bit shifted out. (R606, R607, R608, R609, R610, R611, R612, R613.) -/
def Obligations.ShiftClosedForms : Prop :=
  ∀ (w : Nat) (v : BitVec w) (c : Bool) (n : Nat), 0 < w →
    (shiftTimes (rolStep w) n v c).1 = v.rotateLeft n ∧
    (shiftTimes (rorStep w) n v c).1 = v.rotateRight n ∧
    BitVec.cons (shiftTimes (rclStep w) n v c).2 (shiftTimes (rclStep w) n v c).1 = (BitVec.cons c v).rotateLeft n ∧
    BitVec.cons (shiftTimes (rcrStep w) n v c).2 (shiftTimes (rcrStep w) n v c).1 = (BitVec.cons c v).rotateRight n ∧
    (shiftTimes (shlStep w) n v c).1 = v <<< n ∧
    (shiftTimes (shrStep w) n v c).1 = v >>> n ∧
    (shiftTimes (sarStep w) n v c).1 = v.sshiftRight n ∧
    (0 < n →
      (shiftTimes (rolStep w) n v c).2 = (v.rotateLeft n).getLsbD 0 ∧
      (shiftTimes (rorStep w) n v c).2 = (v.rotateRight n).msb ∧
      (shiftTimes (shlStep w) n v c).2 = (v <<< (n - 1)).msb ∧
      (shiftTimes (shrStep w) n v c).2 = (v >>> (n - 1)).getLsbD 0 ∧
      (shiftTimes (sarStep w) n v c).2 = (v.sshiftRight (n - 1)).getLsbD 0)

/-- In every form, with the whole 8-bit count (1, or CL, not masked): a count of 0 changes nothing and does not
access the operand; otherwise the operand is rotated or shifted that many one-bit steps, CF is the last
one's, and OF is what the rule gives for a count of 1 and a free value for more; the rotates change no other
flag, and the shifts set SF, ZF and PF from the result and leave AF a free value. (R606, R607, R608, R609,
R610, R611, R612, R613.) -/
def Obligations.RotateAndShiftResults : Prop :=
  (∀ (u : State) (e : Rm Reg8) (g : Rm Reg16), shiftCount u (.eb1 e) = 1#8 ∧ shiftCount u (.ew1 g) = 1#8 ∧
    shiftCount u (.ebcl e) = u.getR8 .cl ∧ shiftCount u (.ewcl g) = u.getR8 .cl) ∧
  ∀ f : ShiftForm,
    Runs (.rol f) (fun ins u =>
      let n := shiftCount u f
      if n = 0#8 then u
      else
        let o := shiftOperand ins u f
        let a := u.read o.loc
        let r := shiftTimes (rolStep o.w) n.toNat a.1 u.flags.CF
        let x := { u.flags with CF := r.2 }
        let t := if n = 1#8 then a.2.setFlags { x with OF := r.1.msb != r.2 } else (a.2.setFlags x).drawFlag .OF
        t.write o.loc r.1) ∧
    Runs (.ror f) (fun ins u =>
      let n := shiftCount u f
      if n = 0#8 then u
      else
        let o := shiftOperand ins u f
        let a := u.read o.loc
        let r := shiftTimes (rorStep o.w) n.toNat a.1 u.flags.CF
        let x := { u.flags with CF := r.2 }
        let t := if n = 1#8 then a.2.setFlags { x with OF := r.1.getLsbD (o.w - 1) != r.1.getLsbD (o.w - 2) } else (a.2.setFlags x).drawFlag .OF
        t.write o.loc r.1) ∧
    Runs (.rcl f) (fun ins u =>
      let n := shiftCount u f
      if n = 0#8 then u
      else
        let o := shiftOperand ins u f
        let a := u.read o.loc
        let r := shiftTimes (rclStep o.w) n.toNat a.1 u.flags.CF
        let x := { u.flags with CF := r.2 }
        let t := if n = 1#8 then a.2.setFlags { x with OF := r.1.msb != r.2 } else (a.2.setFlags x).drawFlag .OF
        t.write o.loc r.1) ∧
    Runs (.rcr f) (fun ins u =>
      let n := shiftCount u f
      if n = 0#8 then u
      else
        let o := shiftOperand ins u f
        let a := u.read o.loc
        let r := shiftTimes (rcrStep o.w) n.toNat a.1 u.flags.CF
        let x := { u.flags with CF := r.2 }
        let t := if n = 1#8 then a.2.setFlags { x with OF := r.1.getLsbD (o.w - 1) != r.1.getLsbD (o.w - 2) } else (a.2.setFlags x).drawFlag .OF
        t.write o.loc r.1) ∧
    Runs (.shl f) (fun ins u =>
      let n := shiftCount u f
      if n = 0#8 then u
      else
        let o := shiftOperand ins u f
        let a := u.read o.loc
        let r := shiftTimes (shlStep o.w) n.toNat a.1 u.flags.CF
        let x := { u.flags with CF := r.2 }
        let t := if n = 1#8 then a.2.setFlags { x with OF := r.1.msb != r.2 } else (a.2.setFlags x).drawFlag .OF
        ((t.setFlags { t.flags with SF := r.1.msb, ZF := decide (r.1 = 0#o.w), PF := parity r.1 }).drawFlag .AF).write
          o.loc r.1) ∧
    Runs (.shr f) (fun ins u =>
      let n := shiftCount u f
      if n = 0#8 then u
      else
        let o := shiftOperand ins u f
        let a := u.read o.loc
        let r := shiftTimes (shrStep o.w) n.toNat a.1 u.flags.CF
        let x := { u.flags with CF := r.2 }
        let t := if n = 1#8 then a.2.setFlags { x with OF := a.1.msb } else (a.2.setFlags x).drawFlag .OF
        ((t.setFlags { t.flags with SF := r.1.msb, ZF := decide (r.1 = 0#o.w), PF := parity r.1 }).drawFlag .AF).write
          o.loc r.1) ∧
    Runs (.sar f) (fun ins u =>
      let n := shiftCount u f
      if n = 0#8 then u
      else
        let o := shiftOperand ins u f
        let a := u.read o.loc
        let r := shiftTimes (sarStep o.w) n.toNat a.1 u.flags.CF
        let x := { u.flags with CF := r.2 }
        let t := if n = 1#8 then a.2.setFlags { x with OF := false } else (a.2.setFlags x).drawFlag .OF
        ((t.setFlags { t.flags with SF := r.1.msb, ZF := decide (r.1 = 0#o.w), PF := parity r.1 }).drawFlag .AF).write
          o.loc r.1)

/-- In every form and under every prefix list MOV reads op2 and writes the value to op1, changes no flag, and
the destination then reads as that value when it is a register or lies in the memory array. The term MOV CS,
r/m, which no encoding stands for (R333), runs and writes CS: that is the model's choice (log entry 15).
(R701, R422, R423, R424.) -/
def Obligations.MovResults : Prop :=
  ∀ f : MovForm,
    Runs (.mov f) (fun ins u => (u.read (movPair ins u f).src).2.write (movPair ins u f).dst
      (u.read (movPair ins u f).src).1) ∧
    RunsTo (.mov f) (fun ins u t => t.flags = u.flags ∧
      (u.holdsLoc (movPair ins u f).dst → (t.read (movPair ins u f).dst).1 = (u.read (movPair ins u f).src).1))

/-- XCHG writes each operand with the other's value, both places fixed before either write; NOP does nothing;
LEA writes the effective address without an access; LDS and LES read the offset word and then the segment
word; XLAT reads the byte at BX plus AL; LAHF writes the low byte of the packed flags to AH; SAHF sets SF,
ZF, AF, PF and CF from AH. (R702, R703, R704, R705, R706, R707, R708, R709.) -/
def Obligations.ExchangeAndLoadResults : Prop :=
  (∀ f : XchgForm, Runs (.xchg f) (fun ins u =>
    let p := xchgPair ins u f
    let a := u.read p.dst
    let b := a.2.read p.src
    (b.2.write p.dst b.1).write p.src a.1)) ∧
  Runs .nop (fun _ u => u) ∧
  (∀ (g : Reg16) (m : MemOp),
    Runs (.lea g m) (fun _ u => u.setR16 g (u.ea m)) ∧
    Runs (.lds g m) (fun ins u =>
      let lo := u.segRead16 (u.opSeg ins m) (u.ea m)
      let hi := lo.2.segRead16 (u.opSeg ins m) (u.ea m + 2)
      (hi.2.setR16 g lo.1).setSReg .ds hi.1) ∧
    Runs (.les g m) (fun ins u =>
      let lo := u.segRead16 (u.opSeg ins m) (u.ea m)
      let hi := lo.2.segRead16 (u.opSeg ins m) (u.ea m + 2)
      (hi.2.setR16 g lo.1).setSReg .es hi.1)) ∧
  Runs .xlat (fun ins u =>
    let x := u.segRead8 (u.getSReg (ins.seg.getD .ds)) (u.bx + (u.getR8 .al).setWidth 16)
    x.2.setR8 .al x.1) ∧
  Runs .lahf (fun _ u => u.setR8 .ah (u.packed.extractLsb' 0 8)) ∧
  Runs .sahf (fun _ u =>
    let v := u.getR8 .ah
    let f := { u.flags with
      SF := v.getLsbD 7, ZF := v.getLsbD 6, AF := v.getLsbD 4, PF := v.getLsbD 2, CF := v.getLsbD 0 }
    { u with flags := f })

/-- PUSH lowers SP by 2 and then reads the operand and stores it at SS:SP, so PUSH SP stores the lowered value;
POP reads the word at SS:SP, raises SP by 2 and then writes the operand, whose address was fixed at the
start; PUSHF pushes the packed flags and POPF unpacks the popped word. The term POP CS, which no encoding
stands for (R350), runs and writes CS: that is the model's choice (log entry 15). (R710, R711, R712, R713.) -/
def Obligations.StackResults : Prop :=
  (∀ f : StackForm,
    Runs (.push f) (fun ins u =>
      let v := (u.setR16 .sp (u.sp - 2)).read (stackLoc ins u f)
      v.2.segWrite16 u.ss (u.sp - 2) v.1) ∧
    Runs (.pop f) (fun ins u =>
      let v := u.segRead16 u.ss u.sp
      (v.2.setR16 .sp (u.sp + 2)).write (stackLoc ins u f) v.1)) ∧
  Runs (.push (.r16 .sp)) (fun _ u => (u.setR16 .sp (u.sp - 2)).segWrite16 u.ss (u.sp - 2) (u.sp - 2)) ∧
  Runs .pushf (fun _ u => (u.setR16 .sp (u.sp - 2)).segWrite16 u.ss (u.sp - 2) u.packed) ∧
  Runs .popf (fun _ u =>
    let v := u.segRead16 u.ss u.sp
    (v.2.setR16 .sp (u.sp + 2)).setFlags (Flags.unpack v.1))

/-- Without a repeat prefix each of the ten string instructions does the one iteration of its rule: the accesses
at (DS or the override):SI and ES:DI in order, the flags of source or accumulator minus destination for CMPS
and SCAS, and then the index registers moved by the width, up or down by DF. (R800, R802, R803, R804, R805,
R806.) -/
def Obligations.StringIterationResults : Prop :=
  (∀ (i : Instr) (rule : Ins → State → State), stringRule i = some rule →
    RunsWhen i (fun ins _ => ins.rep = none) rule) ∧
  ∀ (s : State) (k x : Word), s.adv k x = if s.flags.DF = true then x - k else x + k

/-- With a repeat prefix and CX = 0 a string instruction only moves ip past itself. With CX not 0 it does one
iteration and decrements CX; if CX is then not 0 and, for CMPS and SCAS, ZF agrees with the prefix, ip goes
back to the first prefix byte, else ip stays past the instruction. (R801.) -/
def Obligations.RepeatDriver : Prop :=
  ∀ (i : Instr) (rule : Ins → State → State), stringRule i = some rule →
    RunsWhen i (fun ins u => ins.rep ≠ none ∧ u.cx = 0#16) (fun _ u => u) ∧
    ∀ (ps : List Prefix) (s : State) (r : Rep), s.allows ps → s.executes i → repeatMode ps = some r → s.cx ≠ 0#16 →
      let t := (rule (insAt ps i s) (s.start ps i)).setR16 .cx (s.cx - 1)
      exec (Prefix.wrapAll ps i) s = .next
        (if s.cx ≠ 1#16 ∧ (comparesStrings i = true → (t.flags.ZF = true ↔ r = .repE)) then t.setIp s.ip else t)

/-- Relative jumps add the sign-extended displacement to the advanced ip modulo 2^16; indirect jumps load ip
from a register or memory word; far jumps load CS and ip from the instruction or from two memory words; JCXZ
jumps when CX is 0; the loops decrement CX and jump when it is then not 0 and, for LOOPZ and LOOPNZ, ZF is 1
or 0. (R901, R902, R903, R904, R906, R907, R908, R909.) -/
def Obligations.JumpAndLoopResults : Prop :=
  (∀ d : Byte, Runs (.jmp (.short d)) (fun _ u => u.setIp (u.ip + d.signExtend 16))) ∧
  (∀ d : Word, Runs (.jmp (.near d)) (fun _ u => u.setIp (u.ip + d))) ∧
  (∀ e : Rm Reg16, Runs (.jmp (.ind e)) (fun ins u =>
    (u.read (ewLoc ins u e)).2.setIp (u.read (ewLoc ins u e)).1)) ∧
  (∀ seg off : Word, Runs (.jmpf (.ptr seg off)) (fun _ u => { u with cs := seg, ip := off })) ∧
  (∀ m : MemOp, Runs (.jmpf (.ind m)) (fun ins u =>
    let lo := u.segRead16 (u.opSeg ins m) (u.ea m)
    let hi := lo.2.segRead16 (u.opSeg ins m) (u.ea m + 2)
    (hi.2.setIp lo.1).setSReg .cs hi.1)) ∧
  ∀ d : Byte,
    Runs (.jcxz d) (fun _ u => if u.cx = 0#16 then u.setIp (u.ip + d.signExtend 16) else u) ∧
    Runs (.loop d) (fun _ u =>
      let t := u.setR16 .cx (u.cx - 1)
      if u.cx ≠ 1#16 then t.setIp (u.ip + d.signExtend 16) else t) ∧
    Runs (.loopz d) (fun _ u =>
      let t := u.setR16 .cx (u.cx - 1)
      if u.cx ≠ 1#16 ∧ u.flags.ZF = true then t.setIp (u.ip + d.signExtend 16) else t) ∧
    Runs (.loopnz d) (fun _ u =>
      let t := u.setR16 .cx (u.cx - 1)
      if u.cx ≠ 1#16 ∧ u.flags.ZF = false then t.setIp (u.ip + d.signExtend 16) else t)

/-- Each conditional jump adds its sign-extended displacement to the advanced ip when its condition on the flags
holds, and otherwise leaves ip past the instruction; nothing else changes. (R905, R460.) -/
def Obligations.ConditionalJumpResults : Prop :=
  ∀ d : Byte,
    Runs (.jo d) (fun _ u => if u.flags.OF = true then u.setIp (u.ip + d.signExtend 16) else u) ∧
    Runs (.jno d) (fun _ u => if u.flags.OF = false then u.setIp (u.ip + d.signExtend 16) else u) ∧
    Runs (.jb d) (fun _ u => if u.flags.CF = true then u.setIp (u.ip + d.signExtend 16) else u) ∧
    Runs (.jnb d) (fun _ u => if u.flags.CF = false then u.setIp (u.ip + d.signExtend 16) else u) ∧
    Runs (.jz d) (fun _ u => if u.flags.ZF = true then u.setIp (u.ip + d.signExtend 16) else u) ∧
    Runs (.jnz d) (fun _ u => if u.flags.ZF = false then u.setIp (u.ip + d.signExtend 16) else u) ∧
    Runs (.jbe d) (fun _ u => if u.flags.CF = true ∨ u.flags.ZF = true then u.setIp (u.ip + d.signExtend 16) else u) ∧
    Runs (.ja d) (fun _ u => if u.flags.CF = false ∧ u.flags.ZF = false then u.setIp (u.ip + d.signExtend 16) else u) ∧
    Runs (.js d) (fun _ u => if u.flags.SF = true then u.setIp (u.ip + d.signExtend 16) else u) ∧
    Runs (.jns d) (fun _ u => if u.flags.SF = false then u.setIp (u.ip + d.signExtend 16) else u) ∧
    Runs (.jp d) (fun _ u => if u.flags.PF = true then u.setIp (u.ip + d.signExtend 16) else u) ∧
    Runs (.jnp d) (fun _ u => if u.flags.PF = false then u.setIp (u.ip + d.signExtend 16) else u) ∧
    Runs (.jl d) (fun _ u => if u.flags.SF ≠ u.flags.OF then u.setIp (u.ip + d.signExtend 16) else u) ∧
    Runs (.jnl d) (fun _ u => if u.flags.SF = u.flags.OF then u.setIp (u.ip + d.signExtend 16) else u) ∧
    Runs (.jle d) (fun _ u => if u.flags.ZF = true ∨ u.flags.SF ≠ u.flags.OF then u.setIp (u.ip + d.signExtend 16) else u) ∧
    Runs (.jg d) (fun _ u => if u.flags.ZF = false ∧ u.flags.SF = u.flags.OF then u.setIp (u.ip + d.signExtend 16) else u)

/-- A call pushes the offset after it (a far call CS first) and transfers to its target, an indirect target
being read before the push; a return pops ip (a far return then CS) and releases the immediate number of
bytes. (R910, R911, R912, R913, R914, R915, R916, R917.) -/
def Obligations.CallAndReturnResults : Prop :=
  (∀ d : Word, Runs (.call (.near d)) (fun _ u => (u.push16 u.ip).setIp (u.ip + d))) ∧
  (∀ e : Rm Reg16, Runs (.call (.ind e)) (fun ins u =>
    let x := u.read (ewLoc ins u e)
    (x.2.push16 u.ip).setIp x.1)) ∧
  (∀ seg off : Word, Runs (.callf (.ptr seg off)) (fun _ u =>
    { (u.push16 u.cs).push16 u.ip with cs := seg, ip := off })) ∧
  (∀ m : MemOp, Runs (.callf (.ind m)) (fun ins u =>
    let lo := u.segRead16 (u.opSeg ins m) (u.ea m)
    let hi := lo.2.segRead16 (u.opSeg ins m) (u.ea m + 2)
    { (hi.2.push16 u.cs).push16 u.ip with cs := hi.1, ip := lo.1 })) ∧
  Runs (.ret .plain) (fun _ u => u.pop16.2.setIp u.pop16.1) ∧
  (∀ v : Word, Runs (.ret (.imm v)) (fun _ u => (u.pop16.2.setIp u.pop16.1).setR16 .sp (u.sp + 2 + v))) ∧
  Runs (.retf .plain) (fun _ u => { u.pop16.2.pop16.2 with ip := u.pop16.1, cs := u.pop16.2.pop16.1 }) ∧
  ∀ v : Word, Runs (.retf (.imm v)) (fun _ u =>
    { u.pop16.2.pop16.2 with ip := u.pop16.1, cs := u.pop16.2.pop16.1, sp := u.sp + 4 + v })

/-- INT n, INT3 and, when OF is 1, INTO take interrupt entry n, 3 and 4; INTO with OF 0 does nothing; IRET loads
ip, CS and all nine flags from the three words at SS:SP, SS:SP+2 and SS:SP+4 and leaves SP six higher.
(R918, R919, R920, R921.) -/
def Obligations.InterruptResults : Prop :=
  (∀ n : Byte, Runs (.int n) (fun _ u => u.interruptEntry n)) ∧
  Runs .int3 (fun _ u => u.interruptEntry 3#8) ∧
  RunsWhen .into (fun _ u => u.flags.OF = true) (fun _ u => u.interruptEntry 4#8) ∧
  RunsWhen .into (fun _ u => u.flags.OF = false) (fun _ u => u) ∧
  RunsTo .iret (fun _ u t =>
    t.ip = u.word u.ss u.sp ∧ t.cs = u.word u.ss (u.sp + 2) ∧
    t.flags = Flags.unpack (u.word u.ss (u.sp + 4)) ∧ t.sp = u.sp + 6 ∧ t.status = .continued)

/-- Interrupt entry n leaves SP six lower and, where the slots are in the memory array, the packed flags at
SS:SP-2, CS at SS:SP-4 and ip at SS:SP-6; IF and TF are cleared and no other flag changes; ip and CS are the
words at 0:4n and 0:4n+2; nothing else changes; the bus events are the six stores and then the four fetches,
in order. (R1131.) -/
def Obligations.InterruptEntryFrame : Prop :=
  ∀ (s : State) (n : Byte),
    let t := s.interruptEntry n
    let w := s.params.wordWrap
    let v := BitVec.ofNat 16 (4 * n.toNat)
    t.sp = s.sp - 6 ∧ t.flags = { s.flags with IF := false, TF := false } ∧
    t.ip = t.word 0#16 v ∧ t.cs = t.word 0#16 (v + 2) ∧
    (s.holdsWord s.ss (s.sp - 2) → t.word s.ss (s.sp - 2) = s.packed) ∧
    (s.holdsWord s.ss (s.sp - 4) → t.word s.ss (s.sp - 4) = s.cs) ∧
    (s.holdsWord s.ss (s.sp - 6) → t.word s.ss (s.sp - 6) = s.ip) ∧
    Keeps s t (entryFootprint s) ∧
    t.events = s.events ++
      [⟨.store, flat s.ss (s.sp - 2), loByte s.packed⟩, ⟨.store, second w s.ss (s.sp - 2), hiByte s.packed⟩,
       ⟨.store, flat s.ss (s.sp - 4), loByte s.cs⟩, ⟨.store, second w s.ss (s.sp - 4), hiByte s.cs⟩,
       ⟨.store, flat s.ss (s.sp - 6), loByte s.ip⟩, ⟨.store, second w s.ss (s.sp - 6), hiByte s.ip⟩,
       ⟨.fetch, flat 0#16 v, loByte t.ip⟩, ⟨.fetch, second w 0#16 v, hiByte t.ip⟩,
       ⟨.fetch, flat 0#16 (v + 2), loByte t.cs⟩, ⟨.fetch, second w 0#16 (v + 2), hiByte t.cs⟩]

/-- When the three stack slots are in the memory array and the fixed ones leave the nine named bits alone, an
IRET right after an interrupt entry restores ip, CS, all nine flags and SP, and every other register.
(R1133, R1131, R123, R432.) -/
def Obligations.EntryThenReturn : Prop :=
  ∀ (s : State) (n : Byte), s.holdsWord s.ss (s.sp - 2) → s.holdsWord s.ss (s.sp - 4) → s.holdsWord s.ss (s.sp - 6) →
    s.params.flagsFixedOnes &&& 0x0FD5#16 = 0#16 →
    let t := (s.interruptEntry n).interruptReturn
    t.ip = s.ip ∧ t.flags = s.flags ∧ (∀ r, t.getR16 r = s.getR16 r) ∧ ∀ g, t.getSReg g = s.getSReg g

/-- An input from a port without a device gives the port's byte and changes nothing; from a device it gives the
free byte of a fresh draw (in the form of log entry 4, the model's choice) and changes only the draw count;
an output sets the port's byte and, for a device, appends one device output, and records no bus event. Words
go low byte first to p and p + 1 modulo 2^16. IN writes AL or AX and OUT sends AL or AX; the port is the
zero-extended immediate or DX. (R1001, R1002, R240, R241, R242, R243, R244.) -/
def Obligations.PortResults : Prop :=
  (∀ (s : State) (p : Word), p ∉ s.params.portDevices → s.portIn8 p = (s.portByte p, s)) ∧
  (∀ (s : State) (p : Word), p ∈ s.params.portDevices →
    s.portIn8 p = (Config.freeByte s.draws, { s with draws := s.draws + 1 })) ∧
  (∀ (s : State) (p : Word) (v : Byte), (s.portOut8 p v).portByte p = v ∧
    (∀ q, q ≠ p → (s.portOut8 p v).portByte q = s.portByte q) ∧
    (s.portOut8 p v).devOut = (if p ∈ s.params.portDevices then s.devOut ++ [⟨p, v⟩] else s.devOut) ∧
    (s.portOut8 p v).events = s.events) ∧
  (∀ p : Byte,
    Runs (.inp (.alib p)) (fun _ u => (u.portIn8 (p.setWidth 16)).2.setR8 .al (u.portIn8 (p.setWidth 16)).1) ∧
    Runs (.inp (.axib p)) (fun _ u =>
      let lo := u.portIn8 (p.setWidth 16)
      let hi := lo.2.portIn8 (p.setWidth 16 + 1)
      hi.2.setR16 .ax (hi.1 ++ lo.1)) ∧
    Runs (.out (.alib p)) (fun _ u => u.portOut8 (p.setWidth 16) (u.getR8 .al)) ∧
    Runs (.out (.axib p)) (fun _ u =>
      (u.portOut8 (p.setWidth 16) (u.getR8 .al)).portOut8 (p.setWidth 16 + 1) (u.getR8 .ah))) ∧
  Runs (.inp .aldx) (fun _ u => (u.portIn8 u.dx).2.setR8 .al (u.portIn8 u.dx).1) ∧
  Runs (.inp .axdx) (fun _ u =>
    let lo := u.portIn8 u.dx
    let hi := lo.2.portIn8 (u.dx + 1)
    hi.2.setR16 .ax (hi.1 ++ lo.1)) ∧
  Runs (.out .aldx) (fun _ u => u.portOut8 u.dx (u.getR8 .al)) ∧
  Runs (.out .axdx) (fun _ u => (u.portOut8 u.dx (u.getR8 .al)).portOut8 (u.dx + 1) (u.getR8 .ah))

/-- Each flag instruction sets, clears or complements its one flag and changes nothing else; HLT ends its step
with status halted and the instruction's flat address, only ip having moved, and the next step decodes at
the offset after it and runs what it finds there: there is no halt latch; WAIT does nothing. (R1003, R1004,
R1005, R1006, R1007, R1008, R1009, R1010, R1011, R1102.) -/
def Obligations.FlagControlAndHalt : Prop :=
  Runs .clc (fun _ u => { u with flags := { u.flags with CF := false } }) ∧
  Runs .stc (fun _ u => { u with flags := { u.flags with CF := true } }) ∧
  Runs .cmc (fun _ u => { u with flags := { u.flags with CF := !u.flags.CF } }) ∧
  Runs .cld (fun _ u => { u with flags := { u.flags with DF := false } }) ∧
  Runs .std (fun _ u => { u with flags := { u.flags with DF := true } }) ∧
  Runs .cli (fun _ u => { u with flags := { u.flags with IF := false } }) ∧
  Runs .sti (fun _ u => { u with flags := { u.flags with IF := true } }) ∧
  Runs .hlt (fun ins u => { u with status := .halted ins.start }) ∧
  (∀ s : State, exec .hlt s = .next { s with ip := s.ip + 1, status := .halted (flat s.cs s.ip) }) ∧
  (∀ (s : State) (ps : List Prefix), s.decoded = .ok (Prefix.wrapAll ps .hlt) →
    ∃ t, step s = .next t ∧ t.status = .halted (flat s.cs s.ip) ∧
      t.sameTuple { s with ip := s.ip + BitVec.ofNat 16 (ps.length + 1) } ∧
      t.decoded = decode s.params (fun k =>
        s.memByte (flat s.cs (s.ip + BitVec.ofNat 16 (ps.length + 1)) + BitVec.ofNat 20 k)) ∧
      ∀ i, t.decoded = .ok i → step t = exec i t.fetched) ∧
  Runs .wait (fun _ u => u)

/-- In profile source a form of tier general, and in both profiles ESC, only moves ip past the instruction and
ends the step with status unhandled, its class and the flat address of its first byte. The forms of tier
source are exactly ADD, XOR, CMP, INC, DEC, MOV, PUSH, POP, the relative JMP, the sixteen conditional jumps,
the relative CALL, RET without an immediate, STOS, SCAS, IN, OUT, CLC, STC, CLI, STI, CLD, STD and HLT,
whatever their prefixes. (R1110, R1012, R362.) -/
def Obligations.UnhandledForms : Prop :=
  (∀ (ps : List Prefix) (i : Instr), isPrefix i = false → ((Prefix.wrapAll ps i).tier = .source ↔
    i.cls ∈ [.add, .xor, .cmp, .inc, .dec, .mov, .push, .pop, .jo, .jno, .jb, .jnb, .jz, .jnz, .jbe, .ja, .js, .jns, .jp,
      .jnp, .jl, .jnl, .jle, .jg, .stosb, .stosw, .scasb, .scasw, .inp, .out, .clc, .stc, .cli, .sti, .cld, .std, .hlt] ∨
    (∃ d, i = .jmp (.short d)) ∨ (∃ d, i = .jmp (.near d)) ∨ (∃ d, i = .call (.near d)) ∨ i = .ret .plain)) ∧
  (∀ (ps : List Prefix) (i : Instr) (s : State), s.allows ps → isPrefix i = false → i.cls ≠ .invalid →
    s.params.execProfile = .source → i.tier = .general →
    exec (Prefix.wrapAll ps i) s = .next { s with
      ip := s.ip + BitVec.ofNat 16 (ps.length + i.len), status := .unhandled i.cls (flat s.cs s.ip) }) ∧
  ∀ (ps : List Prefix) (n reg : BitVec 3) (e : Rm (BitVec 3)) (s : State), s.allows ps →
    exec (Prefix.wrapAll ps (.esc n reg e)) s = .next { s with
      ip := s.ip + BitVec.ofNat 16 (ps.length + (2 + e.dlen)), status := .unhandled .esc (flat s.cs s.ip) }

/-- A later override replaces an earlier one and a later repeat prefix an earlier one, the two kinds and LOCK
leaving each other alone; a prefix counts in the size; before NOP every prefix that is allowed is ignored;
LOCK is an invalid opcode when LOCK_PREFIX is not ignore. (R303, R304, R305, R306, R307, R308.) -/
def Obligations.PrefixContext : Prop :=
  (segOverride [] = none ∧ repeatMode [] = none) ∧
  (∀ ps : List Prefix,
    segOverride (ps ++ [.es]) = some .es ∧ segOverride (ps ++ [.cs]) = some .cs ∧
    segOverride (ps ++ [.ss]) = some .ss ∧ segOverride (ps ++ [.ds]) = some .ds ∧
    repeatMode (ps ++ [.rep]) = some .repE ∧ repeatMode (ps ++ [.repne]) = some .repNe ∧
    (∀ q ∈ [Prefix.rep, .repne, .lock], segOverride (ps ++ [q]) = segOverride ps) ∧
    ∀ q ∈ [Prefix.es, .cs, .ss, .ds, .lock], repeatMode (ps ++ [q]) = repeatMode ps) ∧
  (∀ (ps : List Prefix) (i : Instr) (s : State), (insAt ps i s).size = ps.length + i.len ∧
    (insAt ps i s).seg = segOverride ps ∧ (insAt ps i s).rep = repeatMode ps) ∧
  (∀ s : State, s.params.execProfile = .full →
    let t := .next { s with ip := s.ip + 2, status := .continued }
    exec (.es .nop) s = t ∧ exec (.cs .nop) s = t ∧ exec (.ss .nop) s = t ∧ exec (.ds .nop) s = t ∧
    exec (.rep .nop) s = t ∧ exec (.repne .nop) s = t ∧
    (s.params.lockPrefix = .ignore → exec (.lock .nop) s = t)) ∧
  ∀ (j : Instr) (s : State), s.params.lockPrefix = .invalid →
    exec (.lock j) s = .next { s with status := .decodeError .invalidOpcode (flat s.cs s.ip) [0xF0#8] }

/-! ### Frames -/

/-- Apart from ip and the outputs of the step, ADD, ADC, SUB, SBB and NEG change only their destination and the
six status flags, CMP only the flags, INC and DEC only their destination and the five flags other than CF,
and NOT only its destination. A memory destination is the byte or the two bytes at its effective address.
(R441, R501, R502, R503, R504, R505, R506, R507, R508, R605, R124.) -/
def Obligations.ArithmeticFrame : Prop :=
  (∀ f : AluForm,
    Frame (.add f) (fun ins u => (writeFootprint u.params.wordWrap (aluPair ins u f).dst).join { flags := statusFlags }) ∧
    Frame (.adc f) (fun ins u => (writeFootprint u.params.wordWrap (aluPair ins u f).dst).join { flags := statusFlags }) ∧
    Frame (.sub f) (fun ins u => (writeFootprint u.params.wordWrap (aluPair ins u f).dst).join { flags := statusFlags }) ∧
    Frame (.sbb f) (fun ins u => (writeFootprint u.params.wordWrap (aluPair ins u f).dst).join { flags := statusFlags }) ∧
    Frame (.cmp f) (fun _ _ => { flags := statusFlags })) ∧
  (∀ f : IncForm,
    Frame (.inc f) (fun ins u => (writeFootprint u.params.wordWrap (incOperand ins u f).loc).join
      { flags := [.PF, .AF, .ZF, .SF, .OF] }) ∧
    Frame (.dec f) (fun ins u => (writeFootprint u.params.wordWrap (incOperand ins u f).loc).join
      { flags := [.PF, .AF, .ZF, .SF, .OF] })) ∧
  ∀ f : UnForm,
    Frame (.neg f) (fun ins u => (writeFootprint u.params.wordWrap (unOperand ins u f).loc).join
      { flags := statusFlags }) ∧
    Frame (.not f) (fun ins u => writeFootprint u.params.wordWrap (unOperand ins u f).loc)

/-- Apart from ip and the outputs of the step, AND, OR, XOR and the shifts change only their destination and the
six status flags, TEST only the flags, and the rotates only their destination, CF and OF. (R601, R602, R603,
R604, R606, R607, R608, R609, R610, R611, R612, R613.) -/
def Obligations.LogicAndShiftFrame : Prop :=
  (∀ f : AluForm,
    Frame (.and f) (fun ins u => (writeFootprint u.params.wordWrap (aluPair ins u f).dst).join { flags := statusFlags }) ∧
    Frame (.or f) (fun ins u => (writeFootprint u.params.wordWrap (aluPair ins u f).dst).join { flags := statusFlags }) ∧
    Frame (.xor f) (fun ins u => (writeFootprint u.params.wordWrap (aluPair ins u f).dst).join { flags := statusFlags })) ∧
  (∀ f : TestForm, Frame (.test f) (fun _ _ => { flags := statusFlags })) ∧
  ∀ f : ShiftForm,
    Frame (.rol f) (fun ins u => (writeFootprint u.params.wordWrap (shiftOperand ins u f).loc).join { flags := [.CF, .OF] }) ∧
    Frame (.ror f) (fun ins u => (writeFootprint u.params.wordWrap (shiftOperand ins u f).loc).join { flags := [.CF, .OF] }) ∧
    Frame (.rcl f) (fun ins u => (writeFootprint u.params.wordWrap (shiftOperand ins u f).loc).join { flags := [.CF, .OF] }) ∧
    Frame (.rcr f) (fun ins u => (writeFootprint u.params.wordWrap (shiftOperand ins u f).loc).join { flags := [.CF, .OF] }) ∧
    Frame (.shl f) (fun ins u => (writeFootprint u.params.wordWrap (shiftOperand ins u f).loc).join { flags := statusFlags }) ∧
    Frame (.shr f) (fun ins u => (writeFootprint u.params.wordWrap (shiftOperand ins u f).loc).join { flags := statusFlags }) ∧
    Frame (.sar f) (fun ins u => (writeFootprint u.params.wordWrap (shiftOperand ins u f).loc).join { flags := statusFlags })

/-- Apart from ip and the outputs of the step: the byte multiplications and divisions and AAA, AAS, AAM, AAD
change only AX and the status flags, the word ones only AX, DX and the status flags, DAA and DAS only AL and
the status flags, CBW only AX, CWD only DX; DIV, IDIV and AAM may also change what a divide error changes,
which is nothing when it is reported and what interrupt entry 0 changes when it is taken. (R509, R510, R511,
R512, R513, R514, R515, R516, R517, R518, R519, R520.) -/
def Obligations.MultiplyDivideAdjustFrame : Prop :=
  (∀ e : Rm Reg8,
    Frame (.mul (.eb e)) (fun _ _ => { words := [.ax], flags := statusFlags }) ∧
    Frame (.imul (.eb e)) (fun _ _ => { words := [.ax], flags := statusFlags }) ∧
    Frame (.div (.eb e)) (fun _ u => Footprint.join { words := [.ax], flags := statusFlags } (divideErrorFootprint u)) ∧
    Frame (.idiv (.eb e)) (fun _ u => Footprint.join { words := [.ax], flags := statusFlags } (divideErrorFootprint u))) ∧
  (∀ e : Rm Reg16,
    Frame (.mul (.ew e)) (fun _ _ => { words := [.ax, .dx], flags := statusFlags }) ∧
    Frame (.imul (.ew e)) (fun _ _ => { words := [.ax, .dx], flags := statusFlags }) ∧
    Frame (.div (.ew e)) (fun _ u =>
      Footprint.join { words := [.ax, .dx], flags := statusFlags } (divideErrorFootprint u)) ∧
    Frame (.idiv (.ew e)) (fun _ u =>
      Footprint.join { words := [.ax, .dx], flags := statusFlags } (divideErrorFootprint u))) ∧
  Frame .daa (fun _ _ => { halves := [.al], flags := statusFlags }) ∧
  Frame .das (fun _ _ => { halves := [.al], flags := statusFlags }) ∧
  Frame .aaa (fun _ _ => { words := [.ax], flags := statusFlags }) ∧
  Frame .aas (fun _ _ => { words := [.ax], flags := statusFlags }) ∧
  (∀ n : Byte,
    Frame (.aam n) (fun _ u => Footprint.join { words := [.ax], flags := statusFlags } (divideErrorFootprint u)) ∧
    Frame (.aad n) (fun _ _ => { words := [.ax], flags := statusFlags })) ∧
  Frame .cbw (fun _ _ => { words := [.ax] }) ∧
  Frame .cwd (fun _ _ => { words := [.dx] })

/-- Apart from ip and the outputs of the step: MOV changes only its destination, XCHG its two operands, NOP
nothing, LEA its register, LDS and LES their register and DS or ES, XLAT AL, LAHF AH, SAHF five flags, PUSH
and PUSHF SP and the two bytes of the slot, POP SP and its destination, POPF SP and the flags. (R701, R702,
R704, R705, R706, R707, R708, R709, R710, R711, R712, R713.) -/
def Obligations.TransferFrame : Prop :=
  (∀ f : MovForm, Frame (.mov f) (fun ins u => writeFootprint u.params.wordWrap (movPair ins u f).dst)) ∧
  (∀ f : XchgForm, Frame (.xchg f) (fun ins u => (writeFootprint u.params.wordWrap (xchgPair ins u f).dst).join
    (writeFootprint u.params.wordWrap (xchgPair ins u f).src))) ∧
  Frame .nop (fun _ _ => {}) ∧
  (∀ (g : Reg16) (m : MemOp),
    Frame (.lea g m) (fun _ _ => { words := [g] }) ∧
    Frame (.lds g m) (fun _ _ => { words := [g], segs := [.ds] }) ∧
    Frame (.les g m) (fun _ _ => { words := [g], segs := [.es] })) ∧
  Frame .xlat (fun _ _ => { halves := [.al] }) ∧
  Frame .lahf (fun _ _ => { halves := [.ah] }) ∧
  Frame .sahf (fun _ _ => { flags := [.SF, .ZF, .AF, .PF, .CF] }) ∧
  (∀ f : StackForm,
    Frame (.push f) (fun _ u => pushFootprint u) ∧
    Frame (.pop f) (fun ins u => Footprint.join { words := [.sp] }
      (writeFootprint u.params.wordWrap (stackLoc ins u f)))) ∧
  Frame .pushf (fun _ u => pushFootprint u) ∧
  Frame .popf (fun _ _ => { words := [.sp], flags := statusFlags ++ [.TF, .IF, .DF] })

/-- Apart from ip and the outputs of the step, and CX under a repeat prefix: MOVS changes only SI, DI and the
bytes at ES:DI, CMPS SI, DI and the status flags, SCAS DI and the status flags, LODS SI and AL or AX, STOS
DI and the bytes at ES:DI. (R800, R801, R802, R803, R804, R805, R806.) -/
def Obligations.StringFrame : Prop :=
  Frame .movsb (fun ins u => { words := [.si, .di] ++ repeatWords ins, bytes := [flat u.es u.di] }) ∧
  Frame .movsw (fun ins u => { words := [.si, .di] ++ repeatWords ins, bytes := wordAddrs u.params.wordWrap u.es u.di }) ∧
  Frame .cmpsb (fun ins _ => { words := [.si, .di] ++ repeatWords ins, flags := statusFlags }) ∧
  Frame .cmpsw (fun ins _ => { words := [.si, .di] ++ repeatWords ins, flags := statusFlags }) ∧
  Frame .scasb (fun ins _ => { words := [.di] ++ repeatWords ins, flags := statusFlags }) ∧
  Frame .scasw (fun ins _ => { words := [.di] ++ repeatWords ins, flags := statusFlags }) ∧
  Frame .lodsb (fun ins _ => { words := [.si] ++ repeatWords ins, halves := [.al] }) ∧
  Frame .lodsw (fun ins _ => { words := [.si, .ax] ++ repeatWords ins }) ∧
  Frame .stosb (fun ins u => { words := [.di] ++ repeatWords ins, bytes := [flat u.es u.di] }) ∧
  Frame .stosw (fun ins u => { words := [.di] ++ repeatWords ins, bytes := wordAddrs u.params.wordWrap u.es u.di })

/-- Apart from ip and the outputs of the step: JMP, the conditional jumps and JCXZ change nothing, the loops
only CX, JMPF only CS, CALL SP and the slot, CALLF SP, CS and two slots, RET SP, RETF SP and CS, INT, INT3
and INTO what interrupt entry changes, IRET SP, CS and the flags. (R901, R903, R905, R907, R910, R912, R914,
R916, R918, R920, R921, R1131.) -/
def Obligations.ControlTransferFrame : Prop :=
  (∀ f : JmpForm, Frame (.jmp f) (fun _ _ => {})) ∧
  (∀ f : FarForm, Frame (.jmpf f) (fun _ _ => { segs := [.cs] })) ∧
  (∀ d : Byte,
    Frame (.jo d) (fun _ _ => {}) ∧
    Frame (.jno d) (fun _ _ => {}) ∧
    Frame (.jb d) (fun _ _ => {}) ∧
    Frame (.jnb d) (fun _ _ => {}) ∧
    Frame (.jz d) (fun _ _ => {}) ∧
    Frame (.jnz d) (fun _ _ => {}) ∧
    Frame (.jbe d) (fun _ _ => {}) ∧
    Frame (.ja d) (fun _ _ => {}) ∧
    Frame (.js d) (fun _ _ => {}) ∧
    Frame (.jns d) (fun _ _ => {}) ∧
    Frame (.jp d) (fun _ _ => {}) ∧
    Frame (.jnp d) (fun _ _ => {}) ∧
    Frame (.jl d) (fun _ _ => {}) ∧
    Frame (.jnl d) (fun _ _ => {}) ∧
    Frame (.jle d) (fun _ _ => {}) ∧
    Frame (.jg d) (fun _ _ => {}) ∧
    Frame (.jcxz d) (fun _ _ => {}) ∧
    Frame (.loop d) (fun _ _ => { words := [.cx] }) ∧
    Frame (.loopz d) (fun _ _ => { words := [.cx] }) ∧
    Frame (.loopnz d) (fun _ _ => { words := [.cx] })) ∧
  (∀ f : CallForm, Frame (.call f) (fun _ u => pushFootprint u)) ∧
  (∀ f : FarForm, Frame (.callf f) (fun _ u => (push2Footprint u).join { segs := [.cs] })) ∧
  (∀ f : RetForm,
    Frame (.ret f) (fun _ _ => { words := [.sp] }) ∧
    Frame (.retf f) (fun _ _ => { words := [.sp], segs := [.cs] })) ∧
  (∀ n : Byte, Frame (.int n) (fun _ u => entryFootprint u)) ∧
  Frame .int3 (fun _ u => entryFootprint u) ∧
  Frame .into (fun _ u => if u.flags.OF = true then entryFootprint u else {}) ∧
  Frame .iret (fun _ _ => { words := [.sp], segs := [.cs], flags := statusFlags ++ [.TF, .IF, .DF] })

/-- Apart from ip and the outputs of the step: IN changes only AL or AX, OUT only the one or two ports, each
flag instruction its flag, and HLT, WAIT, ESC and a rejected encoding change nothing. (R1001, R1002, R1003,
R1004, R1005, R1006, R1008, R1010, R1011, R1012, R1101.) -/
def Obligations.PortAndMiscFrame : Prop :=
  (∀ p : Byte,
    Frame (.inp (.alib p)) (fun _ _ => { halves := [.al] }) ∧
    Frame (.inp (.axib p)) (fun _ _ => { words := [.ax] }) ∧
    Frame (.out (.alib p)) (fun _ _ => { ports := [p.setWidth 16] }) ∧
    Frame (.out (.axib p)) (fun _ _ => { ports := [p.setWidth 16, p.setWidth 16 + 1] })) ∧
  Frame (.inp .aldx) (fun _ _ => { halves := [.al] }) ∧
  Frame (.inp .axdx) (fun _ _ => { words := [.ax] }) ∧
  Frame (.out .aldx) (fun _ u => { ports := [u.dx] }) ∧
  Frame (.out .axdx) (fun _ u => { ports := [u.dx, u.dx + 1] }) ∧
  Frame .clc (fun _ _ => { flags := [.CF] }) ∧
  Frame .stc (fun _ _ => { flags := [.CF] }) ∧
  Frame .cmc (fun _ _ => { flags := [.CF] }) ∧
  Frame .cld (fun _ _ => { flags := [.DF] }) ∧
  Frame .std (fun _ _ => { flags := [.DF] }) ∧
  Frame .cli (fun _ _ => { flags := [.IF] }) ∧
  Frame .sti (fun _ _ => { flags := [.IF] }) ∧
  Frame .hlt (fun _ _ => {}) ∧
  Frame .wait (fun _ _ => {}) ∧
  (∀ (n reg : BitVec 3) (e : Rm (BitVec 3)), Frame (.esc n reg e) (fun _ _ => {})) ∧
  ∀ (why : DecodeReason) (bytes : List Byte), Frame (.invalid why bytes) (fun _ _ => {})

/-! ### Rules about the whole machine -/

/-- If an instruction that has an encoding changes CS it is a far transfer: JMPF, CALLF, RETF, IRET, or an
interrupt entry by INT, INT3, INTO, DIV, IDIV or AAM; ES is changed only by MOV, POP and LES, SS only by MOV
and POP, DS only by MOV, POP and LDS. (R111.) -/
def Obligations.SegmentRegisterWriters : Prop :=
  ∀ (i : Instr) (s t : State), i.wf s.params = true → exec i s = .next t →
    (t.cs ≠ s.cs → i.cls ∈ [.jmpf, .callf, .retf, .iret, .int, .int3, .into, .div, .idiv, .aam]) ∧
    (t.es ≠ s.es → i.cls ∈ [.mov, .pop, .les]) ∧ (t.ss ≠ s.ss → i.cls ∈ [.mov, .pop]) ∧
    (t.ds ≠ s.ds → i.cls ∈ [.mov, .pop, .lds])

/-- TF, IF and DF are changed only by POPF and IRET, by CLD and STD (DF), by CLI and STI (IF) and by interrupt
entry (IF and TF); each status flag is changed only by the instructions whose row of the table of R124 gives
it a value or leaves it a free value. Leaving a flag free sets it to the free bit of a fresh draw, in the
form of log entry 4 (the model's choice), and changes nothing else. (R124, R14, R456.) -/
def Obligations.FlagWriters : Prop :=
  (∀ s : State,
    s.drawFlag .CF = { s with flags := { s.flags with CF := Config.freeBit s.draws }, draws := s.draws + 1 } ∧
    s.drawFlag .PF = { s with flags := { s.flags with PF := Config.freeBit s.draws }, draws := s.draws + 1 } ∧
    s.drawFlag .AF = { s with flags := { s.flags with AF := Config.freeBit s.draws }, draws := s.draws + 1 } ∧
    s.drawFlag .ZF = { s with flags := { s.flags with ZF := Config.freeBit s.draws }, draws := s.draws + 1 } ∧
    s.drawFlag .SF = { s with flags := { s.flags with SF := Config.freeBit s.draws }, draws := s.draws + 1 } ∧
    s.drawFlag .OF = { s with flags := { s.flags with OF := Config.freeBit s.draws }, draws := s.draws + 1 }) ∧
  ∀ (i : Instr) (s t : State), exec i s = .next t →
    (t.flags.DF ≠ s.flags.DF → i.cls ∈ [.popf, .iret, .cld, .std]) ∧
    (t.flags.IF ≠ s.flags.IF → i.cls ∈ [.popf, .iret, .cli, .sti, .int, .int3, .into, .div, .idiv, .aam]) ∧
    (t.flags.TF ≠ s.flags.TF → i.cls ∈ [.popf, .iret, .int, .int3, .into, .div, .idiv, .aam]) ∧
    (t.flags.CF ≠ s.flags.CF → i.cls ∈ [.add, .adc, .sub, .sbb, .cmp, .neg, .cmpsb, .cmpsw, .scasb, .scasw, .and, .or,
      .xor, .test, .mul, .imul, .div, .idiv, .daa, .das, .aaa, .aas, .aam, .aad, .rol, .ror, .rcl, .rcr, .shl, .shr,
      .sar, .sahf, .popf, .iret, .clc, .stc, .cmc]) ∧
    (t.flags.OF ≠ s.flags.OF → i.cls ∈ [.add, .adc, .sub, .sbb, .cmp, .neg, .cmpsb, .cmpsw, .scasb, .scasw, .inc, .dec,
      .and, .or, .xor, .test, .mul, .imul, .div, .idiv, .daa, .das, .aaa, .aas, .aam, .aad, .rol, .ror, .rcl, .rcr,
      .shl, .shr, .sar, .popf, .iret]) ∧
    (t.flags.PF ≠ s.flags.PF ∨ t.flags.AF ≠ s.flags.AF ∨ t.flags.ZF ≠ s.flags.ZF ∨ t.flags.SF ≠ s.flags.SF →
      i.cls ∈ [.add, .adc, .sub, .sbb, .cmp, .neg, .cmpsb, .cmpsw, .scasb, .scasw, .inc, .dec, .and, .or, .xor, .test,
        .mul, .imul, .div, .idiv, .daa, .das, .aaa, .aas, .aam, .aad, .shl, .shr, .sar, .sahf, .popf, .iret])

/-- Memory is changed only by the instructions with a memory destination, the pushes, calls and interrupt
entries and the string moves and stores; the ports are changed only by OUT. (R130, R240, R441, R701, R710,
R802, R806, R910, R1131.) -/
def Obligations.MemoryAndPortWriters : Prop :=
  ∀ (i : Instr) (s t : State), exec i s = .next t →
    (t.ports ≠ s.ports → i.cls = .out) ∧
    (t.mem ≠ s.mem → i.cls ∈ [.add, .or, .adc, .sbb, .and, .sub, .xor, .inc, .dec, .neg, .not, .rol, .ror, .rcl, .rcr,
      .shl, .shr, .sar, .mov, .xchg, .push, .pop, .pushf, .movsb, .movsw, .stosb, .stosw, .call, .callf, .int, .int3,
      .into, .div, .idiv, .aam])

/-- A step ends halted only by HLT, with divide_error only by DIV, IDIV or AAM in mode report, unhandled only
when the profile does not execute the form or the instruction is ESC, and with a decode error only with the
state unchanged; each reports the flat address of the instruction, and its class where the status has one.
(R1100, R1102, R1110, R1121, R1123, R1101.) -/
def Obligations.StatusOutcomes : Prop :=
  ∀ (i : Instr) (s t : State), exec i s = .next t →
    (∀ a, t.status = .halted a → i.cls = .hlt ∧ a = flat s.cs s.ip) ∧
    (∀ cause k a, t.status = .divideError cause k a → k = i.cls ∧ k ∈ [.div, .idiv, .aam] ∧ a = flat s.cs s.ip ∧
      s.params.divErrorMode = .report) ∧
    (∀ k a, t.status = .unhandled k a → k = i.cls ∧ a = flat s.cs s.ip ∧ (i.cls = .esc ∨ ¬ s.executes i)) ∧
    (∀ why a bytes, t.status = .decodeError why a bytes → a = flat s.cs s.ip ∧ t.sameTuple s)
end

