-- ==== Sys2Proof/Laws/State.lean ====
section
/-! SUPPORT. What each state update does to each field, so that no proof unfolds a record update. -/

namespace Sys2Proof.Machine

variable (s : State)

/-! ### Registers -/

@[simp] theorem State.setR16_ax_ax (v : Word) : (s.setR16 .ax v).ax = v := rfl
@[simp] theorem State.setR16_ax_cx (v : Word) : (s.setR16 .ax v).cx = s.cx := rfl
@[simp] theorem State.setR16_ax_dx (v : Word) : (s.setR16 .ax v).dx = s.dx := rfl
@[simp] theorem State.setR16_ax_bx (v : Word) : (s.setR16 .ax v).bx = s.bx := rfl
@[simp] theorem State.setR16_ax_sp (v : Word) : (s.setR16 .ax v).sp = s.sp := rfl
@[simp] theorem State.setR16_ax_bp (v : Word) : (s.setR16 .ax v).bp = s.bp := rfl
@[simp] theorem State.setR16_ax_si (v : Word) : (s.setR16 .ax v).si = s.si := rfl
@[simp] theorem State.setR16_ax_di (v : Word) : (s.setR16 .ax v).di = s.di := rfl
@[simp] theorem State.setR16_cx_ax (v : Word) : (s.setR16 .cx v).ax = s.ax := rfl
@[simp] theorem State.setR16_cx_cx (v : Word) : (s.setR16 .cx v).cx = v := rfl
@[simp] theorem State.setR16_cx_dx (v : Word) : (s.setR16 .cx v).dx = s.dx := rfl
@[simp] theorem State.setR16_cx_bx (v : Word) : (s.setR16 .cx v).bx = s.bx := rfl
@[simp] theorem State.setR16_cx_sp (v : Word) : (s.setR16 .cx v).sp = s.sp := rfl
@[simp] theorem State.setR16_cx_bp (v : Word) : (s.setR16 .cx v).bp = s.bp := rfl
@[simp] theorem State.setR16_cx_si (v : Word) : (s.setR16 .cx v).si = s.si := rfl
@[simp] theorem State.setR16_cx_di (v : Word) : (s.setR16 .cx v).di = s.di := rfl
@[simp] theorem State.setR16_dx_ax (v : Word) : (s.setR16 .dx v).ax = s.ax := rfl
@[simp] theorem State.setR16_dx_cx (v : Word) : (s.setR16 .dx v).cx = s.cx := rfl
@[simp] theorem State.setR16_dx_dx (v : Word) : (s.setR16 .dx v).dx = v := rfl
@[simp] theorem State.setR16_dx_bx (v : Word) : (s.setR16 .dx v).bx = s.bx := rfl
@[simp] theorem State.setR16_dx_sp (v : Word) : (s.setR16 .dx v).sp = s.sp := rfl
@[simp] theorem State.setR16_dx_bp (v : Word) : (s.setR16 .dx v).bp = s.bp := rfl
@[simp] theorem State.setR16_dx_si (v : Word) : (s.setR16 .dx v).si = s.si := rfl
@[simp] theorem State.setR16_dx_di (v : Word) : (s.setR16 .dx v).di = s.di := rfl
@[simp] theorem State.setR16_bx_ax (v : Word) : (s.setR16 .bx v).ax = s.ax := rfl
@[simp] theorem State.setR16_bx_cx (v : Word) : (s.setR16 .bx v).cx = s.cx := rfl
@[simp] theorem State.setR16_bx_dx (v : Word) : (s.setR16 .bx v).dx = s.dx := rfl
@[simp] theorem State.setR16_bx_bx (v : Word) : (s.setR16 .bx v).bx = v := rfl
@[simp] theorem State.setR16_bx_sp (v : Word) : (s.setR16 .bx v).sp = s.sp := rfl
@[simp] theorem State.setR16_bx_bp (v : Word) : (s.setR16 .bx v).bp = s.bp := rfl
@[simp] theorem State.setR16_bx_si (v : Word) : (s.setR16 .bx v).si = s.si := rfl
@[simp] theorem State.setR16_bx_di (v : Word) : (s.setR16 .bx v).di = s.di := rfl
@[simp] theorem State.setR16_sp_ax (v : Word) : (s.setR16 .sp v).ax = s.ax := rfl
@[simp] theorem State.setR16_sp_cx (v : Word) : (s.setR16 .sp v).cx = s.cx := rfl
@[simp] theorem State.setR16_sp_dx (v : Word) : (s.setR16 .sp v).dx = s.dx := rfl
@[simp] theorem State.setR16_sp_bx (v : Word) : (s.setR16 .sp v).bx = s.bx := rfl
@[simp] theorem State.setR16_sp_sp (v : Word) : (s.setR16 .sp v).sp = v := rfl
@[simp] theorem State.setR16_sp_bp (v : Word) : (s.setR16 .sp v).bp = s.bp := rfl
@[simp] theorem State.setR16_sp_si (v : Word) : (s.setR16 .sp v).si = s.si := rfl
@[simp] theorem State.setR16_sp_di (v : Word) : (s.setR16 .sp v).di = s.di := rfl
@[simp] theorem State.setR16_bp_ax (v : Word) : (s.setR16 .bp v).ax = s.ax := rfl
@[simp] theorem State.setR16_bp_cx (v : Word) : (s.setR16 .bp v).cx = s.cx := rfl
@[simp] theorem State.setR16_bp_dx (v : Word) : (s.setR16 .bp v).dx = s.dx := rfl
@[simp] theorem State.setR16_bp_bx (v : Word) : (s.setR16 .bp v).bx = s.bx := rfl
@[simp] theorem State.setR16_bp_sp (v : Word) : (s.setR16 .bp v).sp = s.sp := rfl
@[simp] theorem State.setR16_bp_bp (v : Word) : (s.setR16 .bp v).bp = v := rfl
@[simp] theorem State.setR16_bp_si (v : Word) : (s.setR16 .bp v).si = s.si := rfl
@[simp] theorem State.setR16_bp_di (v : Word) : (s.setR16 .bp v).di = s.di := rfl
@[simp] theorem State.setR16_si_ax (v : Word) : (s.setR16 .si v).ax = s.ax := rfl
@[simp] theorem State.setR16_si_cx (v : Word) : (s.setR16 .si v).cx = s.cx := rfl
@[simp] theorem State.setR16_si_dx (v : Word) : (s.setR16 .si v).dx = s.dx := rfl
@[simp] theorem State.setR16_si_bx (v : Word) : (s.setR16 .si v).bx = s.bx := rfl
@[simp] theorem State.setR16_si_sp (v : Word) : (s.setR16 .si v).sp = s.sp := rfl
@[simp] theorem State.setR16_si_bp (v : Word) : (s.setR16 .si v).bp = s.bp := rfl
@[simp] theorem State.setR16_si_si (v : Word) : (s.setR16 .si v).si = v := rfl
@[simp] theorem State.setR16_si_di (v : Word) : (s.setR16 .si v).di = s.di := rfl
@[simp] theorem State.setR16_di_ax (v : Word) : (s.setR16 .di v).ax = s.ax := rfl
@[simp] theorem State.setR16_di_cx (v : Word) : (s.setR16 .di v).cx = s.cx := rfl
@[simp] theorem State.setR16_di_dx (v : Word) : (s.setR16 .di v).dx = s.dx := rfl
@[simp] theorem State.setR16_di_bx (v : Word) : (s.setR16 .di v).bx = s.bx := rfl
@[simp] theorem State.setR16_di_sp (v : Word) : (s.setR16 .di v).sp = s.sp := rfl
@[simp] theorem State.setR16_di_bp (v : Word) : (s.setR16 .di v).bp = s.bp := rfl
@[simp] theorem State.setR16_di_si (v : Word) : (s.setR16 .di v).si = s.si := rfl
@[simp] theorem State.setR16_di_di (v : Word) : (s.setR16 .di v).di = v := rfl
@[simp] theorem State.setR16_es (r : Reg16) (v : Word) : (s.setR16 r v).es = s.es := by cases r <;> rfl
@[simp] theorem State.setR16_cs (r : Reg16) (v : Word) : (s.setR16 r v).cs = s.cs := by cases r <;> rfl
@[simp] theorem State.setR16_ss (r : Reg16) (v : Word) : (s.setR16 r v).ss = s.ss := by cases r <;> rfl
@[simp] theorem State.setR16_ds (r : Reg16) (v : Word) : (s.setR16 r v).ds = s.ds := by cases r <;> rfl
@[simp] theorem State.setR16_ip (r : Reg16) (v : Word) : (s.setR16 r v).ip = s.ip := by cases r <;> rfl
@[simp] theorem State.setR16_flags (r : Reg16) (v : Word) : (s.setR16 r v).flags = s.flags := by cases r <;> rfl
@[simp] theorem State.setR16_mem (r : Reg16) (v : Word) : (s.setR16 r v).mem = s.mem := by cases r <;> rfl
@[simp] theorem State.setR16_ports (r : Reg16) (v : Word) : (s.setR16 r v).ports = s.ports := by cases r <;> rfl
@[simp] theorem State.setR16_params (r : Reg16) (v : Word) : (s.setR16 r v).params = s.params := by cases r <;> rfl
@[simp] theorem State.setR16_status (r : Reg16) (v : Word) : (s.setR16 r v).status = s.status := by cases r <;> rfl
@[simp] theorem State.setR16_events (r : Reg16) (v : Word) : (s.setR16 r v).events = s.events := by cases r <;> rfl
@[simp] theorem State.setR16_devOut (r : Reg16) (v : Word) : (s.setR16 r v).devOut = s.devOut := by cases r <;> rfl
@[simp] theorem State.setR16_draws (r : Reg16) (v : Word) : (s.setR16 r v).draws = s.draws := by cases r <;> rfl
@[simp] theorem State.setSReg_es_es (v : Word) : (s.setSReg .es v).es = v := rfl
@[simp] theorem State.setSReg_es_cs (v : Word) : (s.setSReg .es v).cs = s.cs := rfl
@[simp] theorem State.setSReg_es_ss (v : Word) : (s.setSReg .es v).ss = s.ss := rfl
@[simp] theorem State.setSReg_es_ds (v : Word) : (s.setSReg .es v).ds = s.ds := rfl
@[simp] theorem State.setSReg_cs_es (v : Word) : (s.setSReg .cs v).es = s.es := rfl
@[simp] theorem State.setSReg_cs_cs (v : Word) : (s.setSReg .cs v).cs = v := rfl
@[simp] theorem State.setSReg_cs_ss (v : Word) : (s.setSReg .cs v).ss = s.ss := rfl
@[simp] theorem State.setSReg_cs_ds (v : Word) : (s.setSReg .cs v).ds = s.ds := rfl
@[simp] theorem State.setSReg_ss_es (v : Word) : (s.setSReg .ss v).es = s.es := rfl
@[simp] theorem State.setSReg_ss_cs (v : Word) : (s.setSReg .ss v).cs = s.cs := rfl
@[simp] theorem State.setSReg_ss_ss (v : Word) : (s.setSReg .ss v).ss = v := rfl
@[simp] theorem State.setSReg_ss_ds (v : Word) : (s.setSReg .ss v).ds = s.ds := rfl
@[simp] theorem State.setSReg_ds_es (v : Word) : (s.setSReg .ds v).es = s.es := rfl
@[simp] theorem State.setSReg_ds_cs (v : Word) : (s.setSReg .ds v).cs = s.cs := rfl
@[simp] theorem State.setSReg_ds_ss (v : Word) : (s.setSReg .ds v).ss = s.ss := rfl
@[simp] theorem State.setSReg_ds_ds (v : Word) : (s.setSReg .ds v).ds = v := rfl
@[simp] theorem State.setSReg_ax (g : SReg) (v : Word) : (s.setSReg g v).ax = s.ax := by cases g <;> rfl
@[simp] theorem State.setSReg_cx (g : SReg) (v : Word) : (s.setSReg g v).cx = s.cx := by cases g <;> rfl
@[simp] theorem State.setSReg_dx (g : SReg) (v : Word) : (s.setSReg g v).dx = s.dx := by cases g <;> rfl
@[simp] theorem State.setSReg_bx (g : SReg) (v : Word) : (s.setSReg g v).bx = s.bx := by cases g <;> rfl
@[simp] theorem State.setSReg_sp (g : SReg) (v : Word) : (s.setSReg g v).sp = s.sp := by cases g <;> rfl
@[simp] theorem State.setSReg_bp (g : SReg) (v : Word) : (s.setSReg g v).bp = s.bp := by cases g <;> rfl
@[simp] theorem State.setSReg_si (g : SReg) (v : Word) : (s.setSReg g v).si = s.si := by cases g <;> rfl
@[simp] theorem State.setSReg_di (g : SReg) (v : Word) : (s.setSReg g v).di = s.di := by cases g <;> rfl
@[simp] theorem State.setSReg_ip (g : SReg) (v : Word) : (s.setSReg g v).ip = s.ip := by cases g <;> rfl
@[simp] theorem State.setSReg_flags (g : SReg) (v : Word) : (s.setSReg g v).flags = s.flags := by cases g <;> rfl
@[simp] theorem State.setSReg_mem (g : SReg) (v : Word) : (s.setSReg g v).mem = s.mem := by cases g <;> rfl
@[simp] theorem State.setSReg_ports (g : SReg) (v : Word) : (s.setSReg g v).ports = s.ports := by cases g <;> rfl
@[simp] theorem State.setSReg_params (g : SReg) (v : Word) : (s.setSReg g v).params = s.params := by cases g <;> rfl
@[simp] theorem State.setSReg_status (g : SReg) (v : Word) : (s.setSReg g v).status = s.status := by cases g <;> rfl
@[simp] theorem State.setSReg_events (g : SReg) (v : Word) : (s.setSReg g v).events = s.events := by cases g <;> rfl
@[simp] theorem State.setSReg_devOut (g : SReg) (v : Word) : (s.setSReg g v).devOut = s.devOut := by cases g <;> rfl
@[simp] theorem State.setSReg_draws (g : SReg) (v : Word) : (s.setSReg g v).draws = s.draws := by cases g <;> rfl

@[simp] theorem State.setIp_ip (v : Word) : (s.setIp v).ip = v := rfl
@[simp] theorem State.setIp_ax (v : Word) : (s.setIp v).ax = s.ax := rfl
@[simp] theorem State.setIp_cx (v : Word) : (s.setIp v).cx = s.cx := rfl
@[simp] theorem State.setIp_dx (v : Word) : (s.setIp v).dx = s.dx := rfl
@[simp] theorem State.setIp_bx (v : Word) : (s.setIp v).bx = s.bx := rfl
@[simp] theorem State.setIp_sp (v : Word) : (s.setIp v).sp = s.sp := rfl
@[simp] theorem State.setIp_bp (v : Word) : (s.setIp v).bp = s.bp := rfl
@[simp] theorem State.setIp_si (v : Word) : (s.setIp v).si = s.si := rfl
@[simp] theorem State.setIp_di (v : Word) : (s.setIp v).di = s.di := rfl
@[simp] theorem State.setIp_es (v : Word) : (s.setIp v).es = s.es := rfl
@[simp] theorem State.setIp_cs (v : Word) : (s.setIp v).cs = s.cs := rfl
@[simp] theorem State.setIp_ss (v : Word) : (s.setIp v).ss = s.ss := rfl
@[simp] theorem State.setIp_ds (v : Word) : (s.setIp v).ds = s.ds := rfl
@[simp] theorem State.setIp_flags (v : Word) : (s.setIp v).flags = s.flags := rfl
@[simp] theorem State.setIp_mem (v : Word) : (s.setIp v).mem = s.mem := rfl
@[simp] theorem State.setIp_ports (v : Word) : (s.setIp v).ports = s.ports := rfl
@[simp] theorem State.setIp_params (v : Word) : (s.setIp v).params = s.params := rfl
@[simp] theorem State.setIp_status (v : Word) : (s.setIp v).status = s.status := rfl
@[simp] theorem State.setIp_events (v : Word) : (s.setIp v).events = s.events := rfl
@[simp] theorem State.setIp_devOut (v : Word) : (s.setIp v).devOut = s.devOut := rfl
@[simp] theorem State.setIp_draws (v : Word) : (s.setIp v).draws = s.draws := rfl
@[simp] theorem State.setFlags_flags (f : Flags) : (s.setFlags f).flags = f := rfl
@[simp] theorem State.setFlags_ax (f : Flags) : (s.setFlags f).ax = s.ax := rfl
@[simp] theorem State.setFlags_cx (f : Flags) : (s.setFlags f).cx = s.cx := rfl
@[simp] theorem State.setFlags_dx (f : Flags) : (s.setFlags f).dx = s.dx := rfl
@[simp] theorem State.setFlags_bx (f : Flags) : (s.setFlags f).bx = s.bx := rfl
@[simp] theorem State.setFlags_sp (f : Flags) : (s.setFlags f).sp = s.sp := rfl
@[simp] theorem State.setFlags_bp (f : Flags) : (s.setFlags f).bp = s.bp := rfl
@[simp] theorem State.setFlags_si (f : Flags) : (s.setFlags f).si = s.si := rfl
@[simp] theorem State.setFlags_di (f : Flags) : (s.setFlags f).di = s.di := rfl
@[simp] theorem State.setFlags_es (f : Flags) : (s.setFlags f).es = s.es := rfl
@[simp] theorem State.setFlags_cs (f : Flags) : (s.setFlags f).cs = s.cs := rfl
@[simp] theorem State.setFlags_ss (f : Flags) : (s.setFlags f).ss = s.ss := rfl
@[simp] theorem State.setFlags_ds (f : Flags) : (s.setFlags f).ds = s.ds := rfl
@[simp] theorem State.setFlags_ip (f : Flags) : (s.setFlags f).ip = s.ip := rfl
@[simp] theorem State.setFlags_mem (f : Flags) : (s.setFlags f).mem = s.mem := rfl
@[simp] theorem State.setFlags_ports (f : Flags) : (s.setFlags f).ports = s.ports := rfl
@[simp] theorem State.setFlags_params (f : Flags) : (s.setFlags f).params = s.params := rfl
@[simp] theorem State.setFlags_status (f : Flags) : (s.setFlags f).status = s.status := rfl
@[simp] theorem State.setFlags_events (f : Flags) : (s.setFlags f).events = s.events := rfl
@[simp] theorem State.setFlags_devOut (f : Flags) : (s.setFlags f).devOut = s.devOut := rfl
@[simp] theorem State.setFlags_draws (f : Flags) : (s.setFlags f).draws = s.draws := rfl
@[simp] theorem State.setStatus_status (x : Status) : (s.setStatus x).status = x := rfl
@[simp] theorem State.setStatus_ax (x : Status) : (s.setStatus x).ax = s.ax := rfl
@[simp] theorem State.setStatus_cx (x : Status) : (s.setStatus x).cx = s.cx := rfl
@[simp] theorem State.setStatus_dx (x : Status) : (s.setStatus x).dx = s.dx := rfl
@[simp] theorem State.setStatus_bx (x : Status) : (s.setStatus x).bx = s.bx := rfl
@[simp] theorem State.setStatus_sp (x : Status) : (s.setStatus x).sp = s.sp := rfl
@[simp] theorem State.setStatus_bp (x : Status) : (s.setStatus x).bp = s.bp := rfl
@[simp] theorem State.setStatus_si (x : Status) : (s.setStatus x).si = s.si := rfl
@[simp] theorem State.setStatus_di (x : Status) : (s.setStatus x).di = s.di := rfl
@[simp] theorem State.setStatus_es (x : Status) : (s.setStatus x).es = s.es := rfl
@[simp] theorem State.setStatus_cs (x : Status) : (s.setStatus x).cs = s.cs := rfl
@[simp] theorem State.setStatus_ss (x : Status) : (s.setStatus x).ss = s.ss := rfl
@[simp] theorem State.setStatus_ds (x : Status) : (s.setStatus x).ds = s.ds := rfl
@[simp] theorem State.setStatus_ip (x : Status) : (s.setStatus x).ip = s.ip := rfl
@[simp] theorem State.setStatus_flags (x : Status) : (s.setStatus x).flags = s.flags := rfl
@[simp] theorem State.setStatus_mem (x : Status) : (s.setStatus x).mem = s.mem := rfl
@[simp] theorem State.setStatus_ports (x : Status) : (s.setStatus x).ports = s.ports := rfl
@[simp] theorem State.setStatus_params (x : Status) : (s.setStatus x).params = s.params := rfl
@[simp] theorem State.setStatus_events (x : Status) : (s.setStatus x).events = s.events := rfl
@[simp] theorem State.setStatus_devOut (x : Status) : (s.setStatus x).devOut = s.devOut := rfl
@[simp] theorem State.setStatus_draws (x : Status) : (s.setStatus x).draws = s.draws := rfl
@[simp] theorem State.advance_ip (n : Nat) : (s.advance n).ip = s.ip + BitVec.ofNat 16 n := rfl
@[simp] theorem State.advance_ax (n : Nat) : (s.advance n).ax = s.ax := by simp [State.advance]
@[simp] theorem State.advance_cx (n : Nat) : (s.advance n).cx = s.cx := by simp [State.advance]
@[simp] theorem State.advance_dx (n : Nat) : (s.advance n).dx = s.dx := by simp [State.advance]
@[simp] theorem State.advance_bx (n : Nat) : (s.advance n).bx = s.bx := by simp [State.advance]
@[simp] theorem State.advance_sp (n : Nat) : (s.advance n).sp = s.sp := by simp [State.advance]
@[simp] theorem State.advance_bp (n : Nat) : (s.advance n).bp = s.bp := by simp [State.advance]
@[simp] theorem State.advance_si (n : Nat) : (s.advance n).si = s.si := by simp [State.advance]
@[simp] theorem State.advance_di (n : Nat) : (s.advance n).di = s.di := by simp [State.advance]
@[simp] theorem State.advance_es (n : Nat) : (s.advance n).es = s.es := by simp [State.advance]
@[simp] theorem State.advance_cs (n : Nat) : (s.advance n).cs = s.cs := by simp [State.advance]
@[simp] theorem State.advance_ss (n : Nat) : (s.advance n).ss = s.ss := by simp [State.advance]
@[simp] theorem State.advance_ds (n : Nat) : (s.advance n).ds = s.ds := by simp [State.advance]
@[simp] theorem State.advance_flags (n : Nat) : (s.advance n).flags = s.flags := by simp [State.advance]
@[simp] theorem State.advance_mem (n : Nat) : (s.advance n).mem = s.mem := by simp [State.advance]
@[simp] theorem State.advance_ports (n : Nat) : (s.advance n).ports = s.ports := by simp [State.advance]
@[simp] theorem State.advance_params (n : Nat) : (s.advance n).params = s.params := by simp [State.advance]
@[simp] theorem State.advance_status (n : Nat) : (s.advance n).status = s.status := by simp [State.advance]
@[simp] theorem State.advance_events (n : Nat) : (s.advance n).events = s.events := by simp [State.advance]
@[simp] theorem State.advance_devOut (n : Nat) : (s.advance n).devOut = s.devOut := by simp [State.advance]
@[simp] theorem State.advance_draws (n : Nat) : (s.advance n).draws = s.draws := by simp [State.advance]

/-! ### Memory and its events -/

@[simp] theorem State.record_ax (k : BusKind) (a : Addr) (v : Byte) : (s.record k a v).ax = s.ax := rfl
@[simp] theorem State.record_cx (k : BusKind) (a : Addr) (v : Byte) : (s.record k a v).cx = s.cx := rfl
@[simp] theorem State.record_dx (k : BusKind) (a : Addr) (v : Byte) : (s.record k a v).dx = s.dx := rfl
@[simp] theorem State.record_bx (k : BusKind) (a : Addr) (v : Byte) : (s.record k a v).bx = s.bx := rfl
@[simp] theorem State.record_sp (k : BusKind) (a : Addr) (v : Byte) : (s.record k a v).sp = s.sp := rfl
@[simp] theorem State.record_bp (k : BusKind) (a : Addr) (v : Byte) : (s.record k a v).bp = s.bp := rfl
@[simp] theorem State.record_si (k : BusKind) (a : Addr) (v : Byte) : (s.record k a v).si = s.si := rfl
@[simp] theorem State.record_di (k : BusKind) (a : Addr) (v : Byte) : (s.record k a v).di = s.di := rfl
@[simp] theorem State.record_es (k : BusKind) (a : Addr) (v : Byte) : (s.record k a v).es = s.es := rfl
@[simp] theorem State.record_cs (k : BusKind) (a : Addr) (v : Byte) : (s.record k a v).cs = s.cs := rfl
@[simp] theorem State.record_ss (k : BusKind) (a : Addr) (v : Byte) : (s.record k a v).ss = s.ss := rfl
@[simp] theorem State.record_ds (k : BusKind) (a : Addr) (v : Byte) : (s.record k a v).ds = s.ds := rfl
@[simp] theorem State.record_ip (k : BusKind) (a : Addr) (v : Byte) : (s.record k a v).ip = s.ip := rfl
@[simp] theorem State.record_flags (k : BusKind) (a : Addr) (v : Byte) : (s.record k a v).flags = s.flags := rfl
@[simp] theorem State.record_mem (k : BusKind) (a : Addr) (v : Byte) : (s.record k a v).mem = s.mem := rfl
@[simp] theorem State.record_ports (k : BusKind) (a : Addr) (v : Byte) : (s.record k a v).ports = s.ports := rfl
@[simp] theorem State.record_params (k : BusKind) (a : Addr) (v : Byte) : (s.record k a v).params = s.params := rfl
@[simp] theorem State.record_status (k : BusKind) (a : Addr) (v : Byte) : (s.record k a v).status = s.status := rfl
@[simp] theorem State.record_devOut (k : BusKind) (a : Addr) (v : Byte) : (s.record k a v).devOut = s.devOut := rfl
@[simp] theorem State.record_draws (k : BusKind) (a : Addr) (v : Byte) : (s.record k a v).draws = s.draws := rfl
@[simp] theorem State.memRead_ax (a : Addr) : ((s.memRead a).2).ax = s.ax := by simp [State.memRead]
@[simp] theorem State.memRead_cx (a : Addr) : ((s.memRead a).2).cx = s.cx := by simp [State.memRead]
@[simp] theorem State.memRead_dx (a : Addr) : ((s.memRead a).2).dx = s.dx := by simp [State.memRead]
@[simp] theorem State.memRead_bx (a : Addr) : ((s.memRead a).2).bx = s.bx := by simp [State.memRead]
@[simp] theorem State.memRead_sp (a : Addr) : ((s.memRead a).2).sp = s.sp := by simp [State.memRead]
@[simp] theorem State.memRead_bp (a : Addr) : ((s.memRead a).2).bp = s.bp := by simp [State.memRead]
@[simp] theorem State.memRead_si (a : Addr) : ((s.memRead a).2).si = s.si := by simp [State.memRead]
@[simp] theorem State.memRead_di (a : Addr) : ((s.memRead a).2).di = s.di := by simp [State.memRead]
@[simp] theorem State.memRead_es (a : Addr) : ((s.memRead a).2).es = s.es := by simp [State.memRead]
@[simp] theorem State.memRead_cs (a : Addr) : ((s.memRead a).2).cs = s.cs := by simp [State.memRead]
@[simp] theorem State.memRead_ss (a : Addr) : ((s.memRead a).2).ss = s.ss := by simp [State.memRead]
@[simp] theorem State.memRead_ds (a : Addr) : ((s.memRead a).2).ds = s.ds := by simp [State.memRead]
@[simp] theorem State.memRead_ip (a : Addr) : ((s.memRead a).2).ip = s.ip := by simp [State.memRead]
@[simp] theorem State.memRead_flags (a : Addr) : ((s.memRead a).2).flags = s.flags := by simp [State.memRead]
@[simp] theorem State.memRead_mem (a : Addr) : ((s.memRead a).2).mem = s.mem := by simp [State.memRead]
@[simp] theorem State.memRead_ports (a : Addr) : ((s.memRead a).2).ports = s.ports := by simp [State.memRead]
@[simp] theorem State.memRead_params (a : Addr) : ((s.memRead a).2).params = s.params := by simp [State.memRead]
@[simp] theorem State.memRead_status (a : Addr) : ((s.memRead a).2).status = s.status := by simp [State.memRead]
@[simp] theorem State.memRead_devOut (a : Addr) : ((s.memRead a).2).devOut = s.devOut := by simp [State.memRead]
@[simp] theorem State.memRead_draws (a : Addr) : ((s.memRead a).2).draws = s.draws := by simp [State.memRead]
@[simp] theorem State.segRead8_ax (x y : Word) : ((s.segRead8 x y).2).ax = s.ax := by simp [State.segRead8]
@[simp] theorem State.segRead8_cx (x y : Word) : ((s.segRead8 x y).2).cx = s.cx := by simp [State.segRead8]
@[simp] theorem State.segRead8_dx (x y : Word) : ((s.segRead8 x y).2).dx = s.dx := by simp [State.segRead8]
@[simp] theorem State.segRead8_bx (x y : Word) : ((s.segRead8 x y).2).bx = s.bx := by simp [State.segRead8]
@[simp] theorem State.segRead8_sp (x y : Word) : ((s.segRead8 x y).2).sp = s.sp := by simp [State.segRead8]
@[simp] theorem State.segRead8_bp (x y : Word) : ((s.segRead8 x y).2).bp = s.bp := by simp [State.segRead8]
@[simp] theorem State.segRead8_si (x y : Word) : ((s.segRead8 x y).2).si = s.si := by simp [State.segRead8]
@[simp] theorem State.segRead8_di (x y : Word) : ((s.segRead8 x y).2).di = s.di := by simp [State.segRead8]
@[simp] theorem State.segRead8_es (x y : Word) : ((s.segRead8 x y).2).es = s.es := by simp [State.segRead8]
@[simp] theorem State.segRead8_cs (x y : Word) : ((s.segRead8 x y).2).cs = s.cs := by simp [State.segRead8]
@[simp] theorem State.segRead8_ss (x y : Word) : ((s.segRead8 x y).2).ss = s.ss := by simp [State.segRead8]
@[simp] theorem State.segRead8_ds (x y : Word) : ((s.segRead8 x y).2).ds = s.ds := by simp [State.segRead8]
@[simp] theorem State.segRead8_ip (x y : Word) : ((s.segRead8 x y).2).ip = s.ip := by simp [State.segRead8]
@[simp] theorem State.segRead8_flags (x y : Word) : ((s.segRead8 x y).2).flags = s.flags := by simp [State.segRead8]
@[simp] theorem State.segRead8_mem (x y : Word) : ((s.segRead8 x y).2).mem = s.mem := by simp [State.segRead8]
@[simp] theorem State.segRead8_ports (x y : Word) : ((s.segRead8 x y).2).ports = s.ports := by simp [State.segRead8]
@[simp] theorem State.segRead8_params (x y : Word) : ((s.segRead8 x y).2).params = s.params := by simp [State.segRead8]
@[simp] theorem State.segRead8_status (x y : Word) : ((s.segRead8 x y).2).status = s.status := by simp [State.segRead8]
@[simp] theorem State.segRead8_devOut (x y : Word) : ((s.segRead8 x y).2).devOut = s.devOut := by simp [State.segRead8]
@[simp] theorem State.segRead8_draws (x y : Word) : ((s.segRead8 x y).2).draws = s.draws := by simp [State.segRead8]
@[simp] theorem State.segRead16_ax (x y : Word) : ((s.segRead16 x y).2).ax = s.ax := by simp [State.segRead16]
@[simp] theorem State.segRead16_cx (x y : Word) : ((s.segRead16 x y).2).cx = s.cx := by simp [State.segRead16]
@[simp] theorem State.segRead16_dx (x y : Word) : ((s.segRead16 x y).2).dx = s.dx := by simp [State.segRead16]
@[simp] theorem State.segRead16_bx (x y : Word) : ((s.segRead16 x y).2).bx = s.bx := by simp [State.segRead16]
@[simp] theorem State.segRead16_sp (x y : Word) : ((s.segRead16 x y).2).sp = s.sp := by simp [State.segRead16]
@[simp] theorem State.segRead16_bp (x y : Word) : ((s.segRead16 x y).2).bp = s.bp := by simp [State.segRead16]
@[simp] theorem State.segRead16_si (x y : Word) : ((s.segRead16 x y).2).si = s.si := by simp [State.segRead16]
@[simp] theorem State.segRead16_di (x y : Word) : ((s.segRead16 x y).2).di = s.di := by simp [State.segRead16]
@[simp] theorem State.segRead16_es (x y : Word) : ((s.segRead16 x y).2).es = s.es := by simp [State.segRead16]
@[simp] theorem State.segRead16_cs (x y : Word) : ((s.segRead16 x y).2).cs = s.cs := by simp [State.segRead16]
@[simp] theorem State.segRead16_ss (x y : Word) : ((s.segRead16 x y).2).ss = s.ss := by simp [State.segRead16]
@[simp] theorem State.segRead16_ds (x y : Word) : ((s.segRead16 x y).2).ds = s.ds := by simp [State.segRead16]
@[simp] theorem State.segRead16_ip (x y : Word) : ((s.segRead16 x y).2).ip = s.ip := by simp [State.segRead16]
@[simp] theorem State.segRead16_flags (x y : Word) : ((s.segRead16 x y).2).flags = s.flags := by simp [State.segRead16]
@[simp] theorem State.segRead16_mem (x y : Word) : ((s.segRead16 x y).2).mem = s.mem := by simp [State.segRead16]
@[simp] theorem State.segRead16_ports (x y : Word) : ((s.segRead16 x y).2).ports = s.ports := by simp [State.segRead16]
@[simp] theorem State.segRead16_params (x y : Word) : ((s.segRead16 x y).2).params = s.params := by simp [State.segRead16]
@[simp] theorem State.segRead16_status (x y : Word) : ((s.segRead16 x y).2).status = s.status := by simp [State.segRead16]
@[simp] theorem State.segRead16_devOut (x y : Word) : ((s.segRead16 x y).2).devOut = s.devOut := by simp [State.segRead16]
@[simp] theorem State.segRead16_draws (x y : Word) : ((s.segRead16 x y).2).draws = s.draws := by simp [State.segRead16]
@[simp] theorem State.poke_ax (a : Addr) (v : Byte) : (s.poke a v).ax = s.ax := by simp only [State.poke]
@[simp] theorem State.poke_cx (a : Addr) (v : Byte) : (s.poke a v).cx = s.cx := by simp only [State.poke]
@[simp] theorem State.poke_dx (a : Addr) (v : Byte) : (s.poke a v).dx = s.dx := by simp only [State.poke]
@[simp] theorem State.poke_bx (a : Addr) (v : Byte) : (s.poke a v).bx = s.bx := by simp only [State.poke]
@[simp] theorem State.poke_sp (a : Addr) (v : Byte) : (s.poke a v).sp = s.sp := by simp only [State.poke]
@[simp] theorem State.poke_bp (a : Addr) (v : Byte) : (s.poke a v).bp = s.bp := by simp only [State.poke]
@[simp] theorem State.poke_si (a : Addr) (v : Byte) : (s.poke a v).si = s.si := by simp only [State.poke]
@[simp] theorem State.poke_di (a : Addr) (v : Byte) : (s.poke a v).di = s.di := by simp only [State.poke]
@[simp] theorem State.poke_es (a : Addr) (v : Byte) : (s.poke a v).es = s.es := by simp only [State.poke]
@[simp] theorem State.poke_cs (a : Addr) (v : Byte) : (s.poke a v).cs = s.cs := by simp only [State.poke]
@[simp] theorem State.poke_ss (a : Addr) (v : Byte) : (s.poke a v).ss = s.ss := by simp only [State.poke]
@[simp] theorem State.poke_ds (a : Addr) (v : Byte) : (s.poke a v).ds = s.ds := by simp only [State.poke]
@[simp] theorem State.poke_ip (a : Addr) (v : Byte) : (s.poke a v).ip = s.ip := by simp only [State.poke]
@[simp] theorem State.poke_flags (a : Addr) (v : Byte) : (s.poke a v).flags = s.flags := by simp only [State.poke]
@[simp] theorem State.poke_ports (a : Addr) (v : Byte) : (s.poke a v).ports = s.ports := by simp only [State.poke]
@[simp] theorem State.poke_params (a : Addr) (v : Byte) : (s.poke a v).params = s.params := by simp only [State.poke]
@[simp] theorem State.poke_status (a : Addr) (v : Byte) : (s.poke a v).status = s.status := by simp only [State.poke]
@[simp] theorem State.poke_events (a : Addr) (v : Byte) : (s.poke a v).events = s.events := by simp only [State.poke]
@[simp] theorem State.poke_devOut (a : Addr) (v : Byte) : (s.poke a v).devOut = s.devOut := by simp only [State.poke]
@[simp] theorem State.poke_draws (a : Addr) (v : Byte) : (s.poke a v).draws = s.draws := by simp only [State.poke]
@[simp] theorem State.memWrite_ax (a : Addr) (v : Byte) : (s.memWrite a v).ax = s.ax := by simp [State.memWrite]
@[simp] theorem State.memWrite_cx (a : Addr) (v : Byte) : (s.memWrite a v).cx = s.cx := by simp [State.memWrite]
@[simp] theorem State.memWrite_dx (a : Addr) (v : Byte) : (s.memWrite a v).dx = s.dx := by simp [State.memWrite]
@[simp] theorem State.memWrite_bx (a : Addr) (v : Byte) : (s.memWrite a v).bx = s.bx := by simp [State.memWrite]
@[simp] theorem State.memWrite_sp (a : Addr) (v : Byte) : (s.memWrite a v).sp = s.sp := by simp [State.memWrite]
@[simp] theorem State.memWrite_bp (a : Addr) (v : Byte) : (s.memWrite a v).bp = s.bp := by simp [State.memWrite]
@[simp] theorem State.memWrite_si (a : Addr) (v : Byte) : (s.memWrite a v).si = s.si := by simp [State.memWrite]
@[simp] theorem State.memWrite_di (a : Addr) (v : Byte) : (s.memWrite a v).di = s.di := by simp [State.memWrite]
@[simp] theorem State.memWrite_es (a : Addr) (v : Byte) : (s.memWrite a v).es = s.es := by simp [State.memWrite]
@[simp] theorem State.memWrite_cs (a : Addr) (v : Byte) : (s.memWrite a v).cs = s.cs := by simp [State.memWrite]
@[simp] theorem State.memWrite_ss (a : Addr) (v : Byte) : (s.memWrite a v).ss = s.ss := by simp [State.memWrite]
@[simp] theorem State.memWrite_ds (a : Addr) (v : Byte) : (s.memWrite a v).ds = s.ds := by simp [State.memWrite]
@[simp] theorem State.memWrite_ip (a : Addr) (v : Byte) : (s.memWrite a v).ip = s.ip := by simp [State.memWrite]
@[simp] theorem State.memWrite_flags (a : Addr) (v : Byte) : (s.memWrite a v).flags = s.flags := by simp [State.memWrite]
@[simp] theorem State.memWrite_ports (a : Addr) (v : Byte) : (s.memWrite a v).ports = s.ports := by simp [State.memWrite]
@[simp] theorem State.memWrite_params (a : Addr) (v : Byte) : (s.memWrite a v).params = s.params := by simp [State.memWrite]
@[simp] theorem State.memWrite_status (a : Addr) (v : Byte) : (s.memWrite a v).status = s.status := by simp [State.memWrite]
@[simp] theorem State.memWrite_devOut (a : Addr) (v : Byte) : (s.memWrite a v).devOut = s.devOut := by simp [State.memWrite]
@[simp] theorem State.memWrite_draws (a : Addr) (v : Byte) : (s.memWrite a v).draws = s.draws := by simp [State.memWrite]
@[simp] theorem State.segWrite8_ax (x y : Word) (v : Byte) : (s.segWrite8 x y v).ax = s.ax := by simp [State.segWrite8]
@[simp] theorem State.segWrite8_cx (x y : Word) (v : Byte) : (s.segWrite8 x y v).cx = s.cx := by simp [State.segWrite8]
@[simp] theorem State.segWrite8_dx (x y : Word) (v : Byte) : (s.segWrite8 x y v).dx = s.dx := by simp [State.segWrite8]
@[simp] theorem State.segWrite8_bx (x y : Word) (v : Byte) : (s.segWrite8 x y v).bx = s.bx := by simp [State.segWrite8]
@[simp] theorem State.segWrite8_sp (x y : Word) (v : Byte) : (s.segWrite8 x y v).sp = s.sp := by simp [State.segWrite8]
@[simp] theorem State.segWrite8_bp (x y : Word) (v : Byte) : (s.segWrite8 x y v).bp = s.bp := by simp [State.segWrite8]
@[simp] theorem State.segWrite8_si (x y : Word) (v : Byte) : (s.segWrite8 x y v).si = s.si := by simp [State.segWrite8]
@[simp] theorem State.segWrite8_di (x y : Word) (v : Byte) : (s.segWrite8 x y v).di = s.di := by simp [State.segWrite8]
@[simp] theorem State.segWrite8_es (x y : Word) (v : Byte) : (s.segWrite8 x y v).es = s.es := by simp [State.segWrite8]
@[simp] theorem State.segWrite8_cs (x y : Word) (v : Byte) : (s.segWrite8 x y v).cs = s.cs := by simp [State.segWrite8]
@[simp] theorem State.segWrite8_ss (x y : Word) (v : Byte) : (s.segWrite8 x y v).ss = s.ss := by simp [State.segWrite8]
@[simp] theorem State.segWrite8_ds (x y : Word) (v : Byte) : (s.segWrite8 x y v).ds = s.ds := by simp [State.segWrite8]
@[simp] theorem State.segWrite8_ip (x y : Word) (v : Byte) : (s.segWrite8 x y v).ip = s.ip := by simp [State.segWrite8]
@[simp] theorem State.segWrite8_flags (x y : Word) (v : Byte) : (s.segWrite8 x y v).flags = s.flags := by simp [State.segWrite8]
@[simp] theorem State.segWrite8_ports (x y : Word) (v : Byte) : (s.segWrite8 x y v).ports = s.ports := by simp [State.segWrite8]
@[simp] theorem State.segWrite8_params (x y : Word) (v : Byte) : (s.segWrite8 x y v).params = s.params := by simp [State.segWrite8]
@[simp] theorem State.segWrite8_status (x y : Word) (v : Byte) : (s.segWrite8 x y v).status = s.status := by simp [State.segWrite8]
@[simp] theorem State.segWrite8_devOut (x y : Word) (v : Byte) : (s.segWrite8 x y v).devOut = s.devOut := by simp [State.segWrite8]
@[simp] theorem State.segWrite8_draws (x y : Word) (v : Byte) : (s.segWrite8 x y v).draws = s.draws := by simp [State.segWrite8]
@[simp] theorem State.segWrite16_ax (x y : Word) (v : Word) : (s.segWrite16 x y v).ax = s.ax := by simp [State.segWrite16]
@[simp] theorem State.segWrite16_cx (x y : Word) (v : Word) : (s.segWrite16 x y v).cx = s.cx := by simp [State.segWrite16]
@[simp] theorem State.segWrite16_dx (x y : Word) (v : Word) : (s.segWrite16 x y v).dx = s.dx := by simp [State.segWrite16]
@[simp] theorem State.segWrite16_bx (x y : Word) (v : Word) : (s.segWrite16 x y v).bx = s.bx := by simp [State.segWrite16]
@[simp] theorem State.segWrite16_sp (x y : Word) (v : Word) : (s.segWrite16 x y v).sp = s.sp := by simp [State.segWrite16]
@[simp] theorem State.segWrite16_bp (x y : Word) (v : Word) : (s.segWrite16 x y v).bp = s.bp := by simp [State.segWrite16]
@[simp] theorem State.segWrite16_si (x y : Word) (v : Word) : (s.segWrite16 x y v).si = s.si := by simp [State.segWrite16]
@[simp] theorem State.segWrite16_di (x y : Word) (v : Word) : (s.segWrite16 x y v).di = s.di := by simp [State.segWrite16]
@[simp] theorem State.segWrite16_es (x y : Word) (v : Word) : (s.segWrite16 x y v).es = s.es := by simp [State.segWrite16]
@[simp] theorem State.segWrite16_cs (x y : Word) (v : Word) : (s.segWrite16 x y v).cs = s.cs := by simp [State.segWrite16]
@[simp] theorem State.segWrite16_ss (x y : Word) (v : Word) : (s.segWrite16 x y v).ss = s.ss := by simp [State.segWrite16]
@[simp] theorem State.segWrite16_ds (x y : Word) (v : Word) : (s.segWrite16 x y v).ds = s.ds := by simp [State.segWrite16]
@[simp] theorem State.segWrite16_ip (x y : Word) (v : Word) : (s.segWrite16 x y v).ip = s.ip := by simp [State.segWrite16]
@[simp] theorem State.segWrite16_flags (x y : Word) (v : Word) : (s.segWrite16 x y v).flags = s.flags := by simp [State.segWrite16]
@[simp] theorem State.segWrite16_ports (x y : Word) (v : Word) : (s.segWrite16 x y v).ports = s.ports := by simp [State.segWrite16]
@[simp] theorem State.segWrite16_params (x y : Word) (v : Word) : (s.segWrite16 x y v).params = s.params := by simp [State.segWrite16]
@[simp] theorem State.segWrite16_status (x y : Word) (v : Word) : (s.segWrite16 x y v).status = s.status := by simp [State.segWrite16]
@[simp] theorem State.segWrite16_devOut (x y : Word) (v : Word) : (s.segWrite16 x y v).devOut = s.devOut := by simp [State.segWrite16]
@[simp] theorem State.segWrite16_draws (x y : Word) (v : Word) : (s.segWrite16 x y v).draws = s.draws := by simp [State.segWrite16]

/-! ### Draws and ports -/

@[simp] theorem State.drawFlag_ax (n : StatusFlag) : (s.drawFlag n).ax = s.ax := by simp only [State.drawFlag]
@[simp] theorem State.drawFlag_cx (n : StatusFlag) : (s.drawFlag n).cx = s.cx := by simp only [State.drawFlag]
@[simp] theorem State.drawFlag_dx (n : StatusFlag) : (s.drawFlag n).dx = s.dx := by simp only [State.drawFlag]
@[simp] theorem State.drawFlag_bx (n : StatusFlag) : (s.drawFlag n).bx = s.bx := by simp only [State.drawFlag]
@[simp] theorem State.drawFlag_sp (n : StatusFlag) : (s.drawFlag n).sp = s.sp := by simp only [State.drawFlag]
@[simp] theorem State.drawFlag_bp (n : StatusFlag) : (s.drawFlag n).bp = s.bp := by simp only [State.drawFlag]
@[simp] theorem State.drawFlag_si (n : StatusFlag) : (s.drawFlag n).si = s.si := by simp only [State.drawFlag]
@[simp] theorem State.drawFlag_di (n : StatusFlag) : (s.drawFlag n).di = s.di := by simp only [State.drawFlag]
@[simp] theorem State.drawFlag_es (n : StatusFlag) : (s.drawFlag n).es = s.es := by simp only [State.drawFlag]
@[simp] theorem State.drawFlag_cs (n : StatusFlag) : (s.drawFlag n).cs = s.cs := by simp only [State.drawFlag]
@[simp] theorem State.drawFlag_ss (n : StatusFlag) : (s.drawFlag n).ss = s.ss := by simp only [State.drawFlag]
@[simp] theorem State.drawFlag_ds (n : StatusFlag) : (s.drawFlag n).ds = s.ds := by simp only [State.drawFlag]
@[simp] theorem State.drawFlag_ip (n : StatusFlag) : (s.drawFlag n).ip = s.ip := by simp only [State.drawFlag]
@[simp] theorem State.drawFlag_mem (n : StatusFlag) : (s.drawFlag n).mem = s.mem := by simp only [State.drawFlag]
@[simp] theorem State.drawFlag_ports (n : StatusFlag) : (s.drawFlag n).ports = s.ports := by simp only [State.drawFlag]
@[simp] theorem State.drawFlag_params (n : StatusFlag) : (s.drawFlag n).params = s.params := by simp only [State.drawFlag]
@[simp] theorem State.drawFlag_status (n : StatusFlag) : (s.drawFlag n).status = s.status := by simp only [State.drawFlag]
@[simp] theorem State.drawFlag_events (n : StatusFlag) : (s.drawFlag n).events = s.events := by simp only [State.drawFlag]
@[simp] theorem State.drawFlag_devOut (n : StatusFlag) : (s.drawFlag n).devOut = s.devOut := by simp only [State.drawFlag]
@[simp] theorem State.drawFlags_ax (ns : List StatusFlag) : (s.drawFlags ns).ax = s.ax := by
  simp only [State.drawFlags]
  induction ns generalizing s with
  | nil => rfl
  | cons n ns ih => simp [List.foldl_cons, ih]
@[simp] theorem State.drawFlags_cx (ns : List StatusFlag) : (s.drawFlags ns).cx = s.cx := by
  simp only [State.drawFlags]
  induction ns generalizing s with
  | nil => rfl
  | cons n ns ih => simp [List.foldl_cons, ih]
@[simp] theorem State.drawFlags_dx (ns : List StatusFlag) : (s.drawFlags ns).dx = s.dx := by
  simp only [State.drawFlags]
  induction ns generalizing s with
  | nil => rfl
  | cons n ns ih => simp [List.foldl_cons, ih]
@[simp] theorem State.drawFlags_bx (ns : List StatusFlag) : (s.drawFlags ns).bx = s.bx := by
  simp only [State.drawFlags]
  induction ns generalizing s with
  | nil => rfl
  | cons n ns ih => simp [List.foldl_cons, ih]
@[simp] theorem State.drawFlags_sp (ns : List StatusFlag) : (s.drawFlags ns).sp = s.sp := by
  simp only [State.drawFlags]
  induction ns generalizing s with
  | nil => rfl
  | cons n ns ih => simp [List.foldl_cons, ih]
@[simp] theorem State.drawFlags_bp (ns : List StatusFlag) : (s.drawFlags ns).bp = s.bp := by
  simp only [State.drawFlags]
  induction ns generalizing s with
  | nil => rfl
  | cons n ns ih => simp [List.foldl_cons, ih]
@[simp] theorem State.drawFlags_si (ns : List StatusFlag) : (s.drawFlags ns).si = s.si := by
  simp only [State.drawFlags]
  induction ns generalizing s with
  | nil => rfl
  | cons n ns ih => simp [List.foldl_cons, ih]
@[simp] theorem State.drawFlags_di (ns : List StatusFlag) : (s.drawFlags ns).di = s.di := by
  simp only [State.drawFlags]
  induction ns generalizing s with
  | nil => rfl
  | cons n ns ih => simp [List.foldl_cons, ih]
@[simp] theorem State.drawFlags_es (ns : List StatusFlag) : (s.drawFlags ns).es = s.es := by
  simp only [State.drawFlags]
  induction ns generalizing s with
  | nil => rfl
  | cons n ns ih => simp [List.foldl_cons, ih]
@[simp] theorem State.drawFlags_cs (ns : List StatusFlag) : (s.drawFlags ns).cs = s.cs := by
  simp only [State.drawFlags]
  induction ns generalizing s with
  | nil => rfl
  | cons n ns ih => simp [List.foldl_cons, ih]
@[simp] theorem State.drawFlags_ss (ns : List StatusFlag) : (s.drawFlags ns).ss = s.ss := by
  simp only [State.drawFlags]
  induction ns generalizing s with
  | nil => rfl
  | cons n ns ih => simp [List.foldl_cons, ih]
@[simp] theorem State.drawFlags_ds (ns : List StatusFlag) : (s.drawFlags ns).ds = s.ds := by
  simp only [State.drawFlags]
  induction ns generalizing s with
  | nil => rfl
  | cons n ns ih => simp [List.foldl_cons, ih]
@[simp] theorem State.drawFlags_ip (ns : List StatusFlag) : (s.drawFlags ns).ip = s.ip := by
  simp only [State.drawFlags]
  induction ns generalizing s with
  | nil => rfl
  | cons n ns ih => simp [List.foldl_cons, ih]
@[simp] theorem State.drawFlags_mem (ns : List StatusFlag) : (s.drawFlags ns).mem = s.mem := by
  simp only [State.drawFlags]
  induction ns generalizing s with
  | nil => rfl
  | cons n ns ih => simp [List.foldl_cons, ih]
@[simp] theorem State.drawFlags_ports (ns : List StatusFlag) : (s.drawFlags ns).ports = s.ports := by
  simp only [State.drawFlags]
  induction ns generalizing s with
  | nil => rfl
  | cons n ns ih => simp [List.foldl_cons, ih]
@[simp] theorem State.drawFlags_params (ns : List StatusFlag) : (s.drawFlags ns).params = s.params := by
  simp only [State.drawFlags]
  induction ns generalizing s with
  | nil => rfl
  | cons n ns ih => simp [List.foldl_cons, ih]
@[simp] theorem State.drawFlags_status (ns : List StatusFlag) : (s.drawFlags ns).status = s.status := by
  simp only [State.drawFlags]
  induction ns generalizing s with
  | nil => rfl
  | cons n ns ih => simp [List.foldl_cons, ih]
@[simp] theorem State.drawFlags_events (ns : List StatusFlag) : (s.drawFlags ns).events = s.events := by
  simp only [State.drawFlags]
  induction ns generalizing s with
  | nil => rfl
  | cons n ns ih => simp [List.foldl_cons, ih]
@[simp] theorem State.drawFlags_devOut (ns : List StatusFlag) : (s.drawFlags ns).devOut = s.devOut := by
  simp only [State.drawFlags]
  induction ns generalizing s with
  | nil => rfl
  | cons n ns ih => simp [List.foldl_cons, ih]
@[simp] theorem State.drawByte_ax : (s.drawByte.2).ax = s.ax := by simp only [State.drawByte]
@[simp] theorem State.drawByte_cx : (s.drawByte.2).cx = s.cx := by simp only [State.drawByte]
@[simp] theorem State.drawByte_dx : (s.drawByte.2).dx = s.dx := by simp only [State.drawByte]
@[simp] theorem State.drawByte_bx : (s.drawByte.2).bx = s.bx := by simp only [State.drawByte]
@[simp] theorem State.drawByte_sp : (s.drawByte.2).sp = s.sp := by simp only [State.drawByte]
@[simp] theorem State.drawByte_bp : (s.drawByte.2).bp = s.bp := by simp only [State.drawByte]
@[simp] theorem State.drawByte_si : (s.drawByte.2).si = s.si := by simp only [State.drawByte]
@[simp] theorem State.drawByte_di : (s.drawByte.2).di = s.di := by simp only [State.drawByte]
@[simp] theorem State.drawByte_es : (s.drawByte.2).es = s.es := by simp only [State.drawByte]
@[simp] theorem State.drawByte_cs : (s.drawByte.2).cs = s.cs := by simp only [State.drawByte]
@[simp] theorem State.drawByte_ss : (s.drawByte.2).ss = s.ss := by simp only [State.drawByte]
@[simp] theorem State.drawByte_ds : (s.drawByte.2).ds = s.ds := by simp only [State.drawByte]
@[simp] theorem State.drawByte_ip : (s.drawByte.2).ip = s.ip := by simp only [State.drawByte]
@[simp] theorem State.drawByte_flags : (s.drawByte.2).flags = s.flags := by simp only [State.drawByte]
@[simp] theorem State.drawByte_mem : (s.drawByte.2).mem = s.mem := by simp only [State.drawByte]
@[simp] theorem State.drawByte_ports : (s.drawByte.2).ports = s.ports := by simp only [State.drawByte]
@[simp] theorem State.drawByte_params : (s.drawByte.2).params = s.params := by simp only [State.drawByte]
@[simp] theorem State.drawByte_status : (s.drawByte.2).status = s.status := by simp only [State.drawByte]
@[simp] theorem State.drawByte_events : (s.drawByte.2).events = s.events := by simp only [State.drawByte]
@[simp] theorem State.drawByte_devOut : (s.drawByte.2).devOut = s.devOut := by simp only [State.drawByte]
@[simp] theorem State.portIn8_ax (p : Word) : ((s.portIn8 p).2).ax = s.ax := by
  simp only [State.portIn8]; split <;> simp
@[simp] theorem State.portIn8_cx (p : Word) : ((s.portIn8 p).2).cx = s.cx := by
  simp only [State.portIn8]; split <;> simp
@[simp] theorem State.portIn8_dx (p : Word) : ((s.portIn8 p).2).dx = s.dx := by
  simp only [State.portIn8]; split <;> simp
@[simp] theorem State.portIn8_bx (p : Word) : ((s.portIn8 p).2).bx = s.bx := by
  simp only [State.portIn8]; split <;> simp
@[simp] theorem State.portIn8_sp (p : Word) : ((s.portIn8 p).2).sp = s.sp := by
  simp only [State.portIn8]; split <;> simp
@[simp] theorem State.portIn8_bp (p : Word) : ((s.portIn8 p).2).bp = s.bp := by
  simp only [State.portIn8]; split <;> simp
@[simp] theorem State.portIn8_si (p : Word) : ((s.portIn8 p).2).si = s.si := by
  simp only [State.portIn8]; split <;> simp
@[simp] theorem State.portIn8_di (p : Word) : ((s.portIn8 p).2).di = s.di := by
  simp only [State.portIn8]; split <;> simp
@[simp] theorem State.portIn8_es (p : Word) : ((s.portIn8 p).2).es = s.es := by
  simp only [State.portIn8]; split <;> simp
@[simp] theorem State.portIn8_cs (p : Word) : ((s.portIn8 p).2).cs = s.cs := by
  simp only [State.portIn8]; split <;> simp
@[simp] theorem State.portIn8_ss (p : Word) : ((s.portIn8 p).2).ss = s.ss := by
  simp only [State.portIn8]; split <;> simp
@[simp] theorem State.portIn8_ds (p : Word) : ((s.portIn8 p).2).ds = s.ds := by
  simp only [State.portIn8]; split <;> simp
@[simp] theorem State.portIn8_ip (p : Word) : ((s.portIn8 p).2).ip = s.ip := by
  simp only [State.portIn8]; split <;> simp
@[simp] theorem State.portIn8_flags (p : Word) : ((s.portIn8 p).2).flags = s.flags := by
  simp only [State.portIn8]; split <;> simp
@[simp] theorem State.portIn8_mem (p : Word) : ((s.portIn8 p).2).mem = s.mem := by
  simp only [State.portIn8]; split <;> simp
@[simp] theorem State.portIn8_ports (p : Word) : ((s.portIn8 p).2).ports = s.ports := by
  simp only [State.portIn8]; split <;> simp
@[simp] theorem State.portIn8_params (p : Word) : ((s.portIn8 p).2).params = s.params := by
  simp only [State.portIn8]; split <;> simp
@[simp] theorem State.portIn8_status (p : Word) : ((s.portIn8 p).2).status = s.status := by
  simp only [State.portIn8]; split <;> simp
@[simp] theorem State.portIn8_events (p : Word) : ((s.portIn8 p).2).events = s.events := by
  simp only [State.portIn8]; split <;> simp
@[simp] theorem State.portIn8_devOut (p : Word) : ((s.portIn8 p).2).devOut = s.devOut := by
  simp only [State.portIn8]; split <;> simp
@[simp] theorem State.portIn16_ax (p : Word) : ((s.portIn16 p).2).ax = s.ax := by simp [State.portIn16]
@[simp] theorem State.portIn16_cx (p : Word) : ((s.portIn16 p).2).cx = s.cx := by simp [State.portIn16]
@[simp] theorem State.portIn16_dx (p : Word) : ((s.portIn16 p).2).dx = s.dx := by simp [State.portIn16]
@[simp] theorem State.portIn16_bx (p : Word) : ((s.portIn16 p).2).bx = s.bx := by simp [State.portIn16]
@[simp] theorem State.portIn16_sp (p : Word) : ((s.portIn16 p).2).sp = s.sp := by simp [State.portIn16]
@[simp] theorem State.portIn16_bp (p : Word) : ((s.portIn16 p).2).bp = s.bp := by simp [State.portIn16]
@[simp] theorem State.portIn16_si (p : Word) : ((s.portIn16 p).2).si = s.si := by simp [State.portIn16]
@[simp] theorem State.portIn16_di (p : Word) : ((s.portIn16 p).2).di = s.di := by simp [State.portIn16]
@[simp] theorem State.portIn16_es (p : Word) : ((s.portIn16 p).2).es = s.es := by simp [State.portIn16]
@[simp] theorem State.portIn16_cs (p : Word) : ((s.portIn16 p).2).cs = s.cs := by simp [State.portIn16]
@[simp] theorem State.portIn16_ss (p : Word) : ((s.portIn16 p).2).ss = s.ss := by simp [State.portIn16]
@[simp] theorem State.portIn16_ds (p : Word) : ((s.portIn16 p).2).ds = s.ds := by simp [State.portIn16]
@[simp] theorem State.portIn16_ip (p : Word) : ((s.portIn16 p).2).ip = s.ip := by simp [State.portIn16]
@[simp] theorem State.portIn16_flags (p : Word) : ((s.portIn16 p).2).flags = s.flags := by simp [State.portIn16]
@[simp] theorem State.portIn16_mem (p : Word) : ((s.portIn16 p).2).mem = s.mem := by simp [State.portIn16]
@[simp] theorem State.portIn16_ports (p : Word) : ((s.portIn16 p).2).ports = s.ports := by simp [State.portIn16]
@[simp] theorem State.portIn16_params (p : Word) : ((s.portIn16 p).2).params = s.params := by simp [State.portIn16]
@[simp] theorem State.portIn16_status (p : Word) : ((s.portIn16 p).2).status = s.status := by simp [State.portIn16]
@[simp] theorem State.portIn16_events (p : Word) : ((s.portIn16 p).2).events = s.events := by simp [State.portIn16]
@[simp] theorem State.portIn16_devOut (p : Word) : ((s.portIn16 p).2).devOut = s.devOut := by simp [State.portIn16]
@[simp] theorem State.portOut8_ax (p : Word) (v : Byte) : (s.portOut8 p v).ax = s.ax := by simp only [State.portOut8]
@[simp] theorem State.portOut8_cx (p : Word) (v : Byte) : (s.portOut8 p v).cx = s.cx := by simp only [State.portOut8]
@[simp] theorem State.portOut8_dx (p : Word) (v : Byte) : (s.portOut8 p v).dx = s.dx := by simp only [State.portOut8]
@[simp] theorem State.portOut8_bx (p : Word) (v : Byte) : (s.portOut8 p v).bx = s.bx := by simp only [State.portOut8]
@[simp] theorem State.portOut8_sp (p : Word) (v : Byte) : (s.portOut8 p v).sp = s.sp := by simp only [State.portOut8]
@[simp] theorem State.portOut8_bp (p : Word) (v : Byte) : (s.portOut8 p v).bp = s.bp := by simp only [State.portOut8]
@[simp] theorem State.portOut8_si (p : Word) (v : Byte) : (s.portOut8 p v).si = s.si := by simp only [State.portOut8]
@[simp] theorem State.portOut8_di (p : Word) (v : Byte) : (s.portOut8 p v).di = s.di := by simp only [State.portOut8]
@[simp] theorem State.portOut8_es (p : Word) (v : Byte) : (s.portOut8 p v).es = s.es := by simp only [State.portOut8]
@[simp] theorem State.portOut8_cs (p : Word) (v : Byte) : (s.portOut8 p v).cs = s.cs := by simp only [State.portOut8]
@[simp] theorem State.portOut8_ss (p : Word) (v : Byte) : (s.portOut8 p v).ss = s.ss := by simp only [State.portOut8]
@[simp] theorem State.portOut8_ds (p : Word) (v : Byte) : (s.portOut8 p v).ds = s.ds := by simp only [State.portOut8]
@[simp] theorem State.portOut8_ip (p : Word) (v : Byte) : (s.portOut8 p v).ip = s.ip := by simp only [State.portOut8]
@[simp] theorem State.portOut8_flags (p : Word) (v : Byte) : (s.portOut8 p v).flags = s.flags := by simp only [State.portOut8]
@[simp] theorem State.portOut8_mem (p : Word) (v : Byte) : (s.portOut8 p v).mem = s.mem := by simp only [State.portOut8]
@[simp] theorem State.portOut8_params (p : Word) (v : Byte) : (s.portOut8 p v).params = s.params := by simp only [State.portOut8]
@[simp] theorem State.portOut8_status (p : Word) (v : Byte) : (s.portOut8 p v).status = s.status := by simp only [State.portOut8]
@[simp] theorem State.portOut8_events (p : Word) (v : Byte) : (s.portOut8 p v).events = s.events := by simp only [State.portOut8]
@[simp] theorem State.portOut8_draws (p : Word) (v : Byte) : (s.portOut8 p v).draws = s.draws := by simp only [State.portOut8]
@[simp] theorem State.portOut16_ax (p : Word) (v : Word) : (s.portOut16 p v).ax = s.ax := by simp [State.portOut16]
@[simp] theorem State.portOut16_cx (p : Word) (v : Word) : (s.portOut16 p v).cx = s.cx := by simp [State.portOut16]
@[simp] theorem State.portOut16_dx (p : Word) (v : Word) : (s.portOut16 p v).dx = s.dx := by simp [State.portOut16]
@[simp] theorem State.portOut16_bx (p : Word) (v : Word) : (s.portOut16 p v).bx = s.bx := by simp [State.portOut16]
@[simp] theorem State.portOut16_sp (p : Word) (v : Word) : (s.portOut16 p v).sp = s.sp := by simp [State.portOut16]
@[simp] theorem State.portOut16_bp (p : Word) (v : Word) : (s.portOut16 p v).bp = s.bp := by simp [State.portOut16]
@[simp] theorem State.portOut16_si (p : Word) (v : Word) : (s.portOut16 p v).si = s.si := by simp [State.portOut16]
@[simp] theorem State.portOut16_di (p : Word) (v : Word) : (s.portOut16 p v).di = s.di := by simp [State.portOut16]
@[simp] theorem State.portOut16_es (p : Word) (v : Word) : (s.portOut16 p v).es = s.es := by simp [State.portOut16]
@[simp] theorem State.portOut16_cs (p : Word) (v : Word) : (s.portOut16 p v).cs = s.cs := by simp [State.portOut16]
@[simp] theorem State.portOut16_ss (p : Word) (v : Word) : (s.portOut16 p v).ss = s.ss := by simp [State.portOut16]
@[simp] theorem State.portOut16_ds (p : Word) (v : Word) : (s.portOut16 p v).ds = s.ds := by simp [State.portOut16]
@[simp] theorem State.portOut16_ip (p : Word) (v : Word) : (s.portOut16 p v).ip = s.ip := by simp [State.portOut16]
@[simp] theorem State.portOut16_flags (p : Word) (v : Word) : (s.portOut16 p v).flags = s.flags := by simp [State.portOut16]
@[simp] theorem State.portOut16_mem (p : Word) (v : Word) : (s.portOut16 p v).mem = s.mem := by simp [State.portOut16]
@[simp] theorem State.portOut16_params (p : Word) (v : Word) : (s.portOut16 p v).params = s.params := by simp [State.portOut16]
@[simp] theorem State.portOut16_status (p : Word) (v : Word) : (s.portOut16 p v).status = s.status := by simp [State.portOut16]
@[simp] theorem State.portOut16_events (p : Word) (v : Word) : (s.portOut16 p v).events = s.events := by simp [State.portOut16]
@[simp] theorem State.portOut16_draws (p : Word) (v : Word) : (s.portOut16 p v).draws = s.draws := by simp [State.portOut16]

/-! ### Byte registers, the stack and operands -/

@[simp] theorem State.setR8_es (r : Reg8) (v : Byte) : (s.setR8 r v).es = s.es := by simp [State.setR8]
@[simp] theorem State.setR8_cs (r : Reg8) (v : Byte) : (s.setR8 r v).cs = s.cs := by simp [State.setR8]
@[simp] theorem State.setR8_ss (r : Reg8) (v : Byte) : (s.setR8 r v).ss = s.ss := by simp [State.setR8]
@[simp] theorem State.setR8_ds (r : Reg8) (v : Byte) : (s.setR8 r v).ds = s.ds := by simp [State.setR8]
@[simp] theorem State.setR8_ip (r : Reg8) (v : Byte) : (s.setR8 r v).ip = s.ip := by simp [State.setR8]
@[simp] theorem State.setR8_flags (r : Reg8) (v : Byte) : (s.setR8 r v).flags = s.flags := by simp [State.setR8]
@[simp] theorem State.setR8_mem (r : Reg8) (v : Byte) : (s.setR8 r v).mem = s.mem := by simp [State.setR8]
@[simp] theorem State.setR8_ports (r : Reg8) (v : Byte) : (s.setR8 r v).ports = s.ports := by simp [State.setR8]
@[simp] theorem State.setR8_params (r : Reg8) (v : Byte) : (s.setR8 r v).params = s.params := by simp [State.setR8]
@[simp] theorem State.setR8_status (r : Reg8) (v : Byte) : (s.setR8 r v).status = s.status := by simp [State.setR8]
@[simp] theorem State.setR8_events (r : Reg8) (v : Byte) : (s.setR8 r v).events = s.events := by simp [State.setR8]
@[simp] theorem State.setR8_devOut (r : Reg8) (v : Byte) : (s.setR8 r v).devOut = s.devOut := by simp [State.setR8]
@[simp] theorem State.setR8_draws (r : Reg8) (v : Byte) : (s.setR8 r v).draws = s.draws := by simp [State.setR8]
@[simp] theorem State.push16_ax (v : Word) : (s.push16 v).ax = s.ax := by simp [State.push16]
@[simp] theorem State.push16_cx (v : Word) : (s.push16 v).cx = s.cx := by simp [State.push16]
@[simp] theorem State.push16_dx (v : Word) : (s.push16 v).dx = s.dx := by simp [State.push16]
@[simp] theorem State.push16_bx (v : Word) : (s.push16 v).bx = s.bx := by simp [State.push16]
@[simp] theorem State.push16_bp (v : Word) : (s.push16 v).bp = s.bp := by simp [State.push16]
@[simp] theorem State.push16_si (v : Word) : (s.push16 v).si = s.si := by simp [State.push16]
@[simp] theorem State.push16_di (v : Word) : (s.push16 v).di = s.di := by simp [State.push16]
@[simp] theorem State.push16_es (v : Word) : (s.push16 v).es = s.es := by simp [State.push16]
@[simp] theorem State.push16_cs (v : Word) : (s.push16 v).cs = s.cs := by simp [State.push16]
@[simp] theorem State.push16_ss (v : Word) : (s.push16 v).ss = s.ss := by simp [State.push16]
@[simp] theorem State.push16_ds (v : Word) : (s.push16 v).ds = s.ds := by simp [State.push16]
@[simp] theorem State.push16_ip (v : Word) : (s.push16 v).ip = s.ip := by simp [State.push16]
@[simp] theorem State.push16_flags (v : Word) : (s.push16 v).flags = s.flags := by simp [State.push16]
@[simp] theorem State.push16_ports (v : Word) : (s.push16 v).ports = s.ports := by simp [State.push16]
@[simp] theorem State.push16_params (v : Word) : (s.push16 v).params = s.params := by simp [State.push16]
@[simp] theorem State.push16_status (v : Word) : (s.push16 v).status = s.status := by simp [State.push16]
@[simp] theorem State.push16_devOut (v : Word) : (s.push16 v).devOut = s.devOut := by simp [State.push16]
@[simp] theorem State.push16_draws (v : Word) : (s.push16 v).draws = s.draws := by simp [State.push16]
@[simp] theorem State.push16_sp (v : Word) : (s.push16 v).sp = s.sp - 2 := by simp [State.push16]
@[simp] theorem State.pop16_ax : (s.pop16.2).ax = s.ax := by simp [State.pop16]
@[simp] theorem State.pop16_cx : (s.pop16.2).cx = s.cx := by simp [State.pop16]
@[simp] theorem State.pop16_dx : (s.pop16.2).dx = s.dx := by simp [State.pop16]
@[simp] theorem State.pop16_bx : (s.pop16.2).bx = s.bx := by simp [State.pop16]
@[simp] theorem State.pop16_bp : (s.pop16.2).bp = s.bp := by simp [State.pop16]
@[simp] theorem State.pop16_si : (s.pop16.2).si = s.si := by simp [State.pop16]
@[simp] theorem State.pop16_di : (s.pop16.2).di = s.di := by simp [State.pop16]
@[simp] theorem State.pop16_es : (s.pop16.2).es = s.es := by simp [State.pop16]
@[simp] theorem State.pop16_cs : (s.pop16.2).cs = s.cs := by simp [State.pop16]
@[simp] theorem State.pop16_ss : (s.pop16.2).ss = s.ss := by simp [State.pop16]
@[simp] theorem State.pop16_ds : (s.pop16.2).ds = s.ds := by simp [State.pop16]
@[simp] theorem State.pop16_ip : (s.pop16.2).ip = s.ip := by simp [State.pop16]
@[simp] theorem State.pop16_flags : (s.pop16.2).flags = s.flags := by simp [State.pop16]
@[simp] theorem State.pop16_mem : (s.pop16.2).mem = s.mem := by simp [State.pop16]
@[simp] theorem State.pop16_ports : (s.pop16.2).ports = s.ports := by simp [State.pop16]
@[simp] theorem State.pop16_params : (s.pop16.2).params = s.params := by simp [State.pop16]
@[simp] theorem State.pop16_status : (s.pop16.2).status = s.status := by simp [State.pop16]
@[simp] theorem State.pop16_devOut : (s.pop16.2).devOut = s.devOut := by simp [State.pop16]
@[simp] theorem State.pop16_draws : (s.pop16.2).draws = s.draws := by simp [State.pop16]
@[simp] theorem State.pop16_sp : s.pop16.2.sp = s.sp + 2 := by simp [State.pop16]
@[simp] theorem State.read_ax {w : Nat} (l : Loc w) : ((s.read l).2).ax = s.ax := by cases l <;> simp [State.read]
@[simp] theorem State.read_cx {w : Nat} (l : Loc w) : ((s.read l).2).cx = s.cx := by cases l <;> simp [State.read]
@[simp] theorem State.read_dx {w : Nat} (l : Loc w) : ((s.read l).2).dx = s.dx := by cases l <;> simp [State.read]
@[simp] theorem State.read_bx {w : Nat} (l : Loc w) : ((s.read l).2).bx = s.bx := by cases l <;> simp [State.read]
@[simp] theorem State.read_sp {w : Nat} (l : Loc w) : ((s.read l).2).sp = s.sp := by cases l <;> simp [State.read]
@[simp] theorem State.read_bp {w : Nat} (l : Loc w) : ((s.read l).2).bp = s.bp := by cases l <;> simp [State.read]
@[simp] theorem State.read_si {w : Nat} (l : Loc w) : ((s.read l).2).si = s.si := by cases l <;> simp [State.read]
@[simp] theorem State.read_di {w : Nat} (l : Loc w) : ((s.read l).2).di = s.di := by cases l <;> simp [State.read]
@[simp] theorem State.read_es {w : Nat} (l : Loc w) : ((s.read l).2).es = s.es := by cases l <;> simp [State.read]
@[simp] theorem State.read_cs {w : Nat} (l : Loc w) : ((s.read l).2).cs = s.cs := by cases l <;> simp [State.read]
@[simp] theorem State.read_ss {w : Nat} (l : Loc w) : ((s.read l).2).ss = s.ss := by cases l <;> simp [State.read]
@[simp] theorem State.read_ds {w : Nat} (l : Loc w) : ((s.read l).2).ds = s.ds := by cases l <;> simp [State.read]
@[simp] theorem State.read_ip {w : Nat} (l : Loc w) : ((s.read l).2).ip = s.ip := by cases l <;> simp [State.read]
@[simp] theorem State.read_flags {w : Nat} (l : Loc w) : ((s.read l).2).flags = s.flags := by cases l <;> simp [State.read]
@[simp] theorem State.read_mem {w : Nat} (l : Loc w) : ((s.read l).2).mem = s.mem := by cases l <;> simp [State.read]
@[simp] theorem State.read_ports {w : Nat} (l : Loc w) : ((s.read l).2).ports = s.ports := by cases l <;> simp [State.read]
@[simp] theorem State.read_params {w : Nat} (l : Loc w) : ((s.read l).2).params = s.params := by cases l <;> simp [State.read]
@[simp] theorem State.read_status {w : Nat} (l : Loc w) : ((s.read l).2).status = s.status := by cases l <;> simp [State.read]
@[simp] theorem State.read_devOut {w : Nat} (l : Loc w) : ((s.read l).2).devOut = s.devOut := by cases l <;> simp [State.read]
@[simp] theorem State.read_draws {w : Nat} (l : Loc w) : ((s.read l).2).draws = s.draws := by cases l <;> simp [State.read]
@[simp] theorem State.write_ip {w : Nat} (l : Loc w) (v : BitVec w) : (s.write l v).ip = s.ip := by cases l <;> simp [State.write]
@[simp] theorem State.write_flags {w : Nat} (l : Loc w) (v : BitVec w) : (s.write l v).flags = s.flags := by cases l <;> simp [State.write]
@[simp] theorem State.write_ports {w : Nat} (l : Loc w) (v : BitVec w) : (s.write l v).ports = s.ports := by cases l <;> simp [State.write]
@[simp] theorem State.write_params {w : Nat} (l : Loc w) (v : BitVec w) : (s.write l v).params = s.params := by cases l <;> simp [State.write]
@[simp] theorem State.write_status {w : Nat} (l : Loc w) (v : BitVec w) : (s.write l v).status = s.status := by cases l <;> simp [State.write]
@[simp] theorem State.write_devOut {w : Nat} (l : Loc w) (v : BitVec w) : (s.write l v).devOut = s.devOut := by cases l <;> simp [State.write]
@[simp] theorem State.write_draws {w : Nat} (l : Loc w) (v : BitVec w) : (s.write l v).draws = s.draws := by cases l <;> simp [State.write]
@[simp] theorem State.readFar_ax (ins : Ins) (m : MemOp) : ((s.readFar ins m).2).ax = s.ax := by simp [State.readFar]
@[simp] theorem State.readFar_cx (ins : Ins) (m : MemOp) : ((s.readFar ins m).2).cx = s.cx := by simp [State.readFar]
@[simp] theorem State.readFar_dx (ins : Ins) (m : MemOp) : ((s.readFar ins m).2).dx = s.dx := by simp [State.readFar]
@[simp] theorem State.readFar_bx (ins : Ins) (m : MemOp) : ((s.readFar ins m).2).bx = s.bx := by simp [State.readFar]
@[simp] theorem State.readFar_sp (ins : Ins) (m : MemOp) : ((s.readFar ins m).2).sp = s.sp := by simp [State.readFar]
@[simp] theorem State.readFar_bp (ins : Ins) (m : MemOp) : ((s.readFar ins m).2).bp = s.bp := by simp [State.readFar]
@[simp] theorem State.readFar_si (ins : Ins) (m : MemOp) : ((s.readFar ins m).2).si = s.si := by simp [State.readFar]
@[simp] theorem State.readFar_di (ins : Ins) (m : MemOp) : ((s.readFar ins m).2).di = s.di := by simp [State.readFar]
@[simp] theorem State.readFar_es (ins : Ins) (m : MemOp) : ((s.readFar ins m).2).es = s.es := by simp [State.readFar]
@[simp] theorem State.readFar_cs (ins : Ins) (m : MemOp) : ((s.readFar ins m).2).cs = s.cs := by simp [State.readFar]
@[simp] theorem State.readFar_ss (ins : Ins) (m : MemOp) : ((s.readFar ins m).2).ss = s.ss := by simp [State.readFar]
@[simp] theorem State.readFar_ds (ins : Ins) (m : MemOp) : ((s.readFar ins m).2).ds = s.ds := by simp [State.readFar]
@[simp] theorem State.readFar_ip (ins : Ins) (m : MemOp) : ((s.readFar ins m).2).ip = s.ip := by simp [State.readFar]
@[simp] theorem State.readFar_flags (ins : Ins) (m : MemOp) : ((s.readFar ins m).2).flags = s.flags := by simp [State.readFar]
@[simp] theorem State.readFar_mem (ins : Ins) (m : MemOp) : ((s.readFar ins m).2).mem = s.mem := by simp [State.readFar]
@[simp] theorem State.readFar_ports (ins : Ins) (m : MemOp) : ((s.readFar ins m).2).ports = s.ports := by simp [State.readFar]
@[simp] theorem State.readFar_params (ins : Ins) (m : MemOp) : ((s.readFar ins m).2).params = s.params := by simp [State.readFar]
@[simp] theorem State.readFar_status (ins : Ins) (m : MemOp) : ((s.readFar ins m).2).status = s.status := by simp [State.readFar]
@[simp] theorem State.readFar_devOut (ins : Ins) (m : MemOp) : ((s.readFar ins m).2).devOut = s.devOut := by simp [State.readFar]
@[simp] theorem State.readFar_draws (ins : Ins) (m : MemOp) : ((s.readFar ins m).2).draws = s.draws := by simp [State.readFar]

/-! ### Flags written twice -/

@[simp] theorem State.setFlags_setFlags (f g : Flags) : (s.setFlags f).setFlags g = s.setFlags g := rfl

end Sys2Proof.Machine
end

