-- ==== Sys2Proof/Laws/Memory.lean ====
section
/-! SUPPORT. Reads after writes, and that every memory operation keeps the canonical form. -/

namespace Sys2Proof.Machine

/-! ### Byte lists -/

theorem Cells.read_erase_same (k : Nat) (m : Memory) : Cells.read (Cells.erase k m) k = 0#8 := by
  induction m with
  | nil => rfl
  | cons c m ih =>
    obtain ⟨a, b⟩ := c
    by_cases h : a = k <;> simp [Cells.erase, Cells.read, h, ih]

theorem Cells.read_erase_ne {k j : Nat} (h : j ≠ k) (m : Memory) :
    Cells.read (Cells.erase k m) j = Cells.read m j := by
  induction m with
  | nil => rfl
  | cons c m ih =>
    obtain ⟨a, b⟩ := c
    by_cases hk : a = k
    · subst hk; simp [Cells.erase, Cells.read, ih, Ne.symm h]
    · simp [Cells.erase, Cells.read, hk, ih]

/-- An inserted address reads as the inserted byte when the list is sorted or does not hold it. -/
theorem Cells.read_insert_same (k : Nat) (v : Byte) (m : Memory) (h : ∀ c ∈ m, c.1 ≠ k) :
    Cells.read (Cells.insert k v m) k = v := by
  induction m with
  | nil => simp [Cells.insert, Cells.read]
  | cons c m ih =>
    obtain ⟨a, b⟩ := c
    have ha : a ≠ k := h (a, b) (by simp)
    by_cases hk : k < a
    · simp [Cells.insert, Cells.read, hk]
    · simp [Cells.insert, Cells.read, hk, ha, ih (fun c hc => h c (by simp [hc]))]

theorem Cells.read_insert_ne {k j : Nat} (h : j ≠ k) (v : Byte) (m : Memory) :
    Cells.read (Cells.insert k v m) j = Cells.read m j := by
  induction m with
  | nil => simp [Cells.insert, Cells.read, Ne.symm h]
  | cons c m ih =>
    obtain ⟨a, b⟩ := c
    by_cases hk : k < a <;> simp [Cells.insert, Cells.read, hk, Ne.symm h, ih]

theorem Cells.erase_ne (k : Nat) (m : Memory) : ∀ c ∈ Cells.erase k m, c.1 ≠ k := by
  induction m with
  | nil => simp [Cells.erase]
  | cons c m ih =>
    obtain ⟨a, b⟩ := c
    by_cases hk : a = k
    · simpa [Cells.erase, hk] using ih
    · intro c hc
      simp only [Cells.erase, hk, if_false, List.mem_cons] at hc
      rcases hc with rfl | hc
      · exact hk
      · exact ih c hc

/-- A written address reads as the byte written. -/
@[simp] theorem Cells.read_write_same (m : Memory) (k : Nat) (v : Byte) :
    Cells.read (Cells.write m k v) k = v := by
  unfold Cells.write
  split
  · next h => simp [h, Cells.read_erase_same]
  · exact Cells.read_insert_same k v _ (Cells.erase_ne k m)

/-- A write leaves every other address alone. -/
theorem Cells.read_write_ne {k j : Nat} (h : j ≠ k) (m : Memory) (v : Byte) :
    Cells.read (Cells.write m k v) j = Cells.read m j := by
  unfold Cells.write
  split
  · exact Cells.read_erase_ne h m
  · rw [Cells.read_insert_ne h, Cells.read_erase_ne h]

theorem Cells.read_write (m : Memory) (k j : Nat) (v : Byte) :
    Cells.read (Cells.write m k v) j = if j = k then v else Cells.read m j := by
  by_cases h : j = k
  · simp [h]
  · simp [h, Cells.read_write_ne h]

/-! ### The canonical form -/

theorem Cells.canonFrom_mono {lo hi : Nat} (h : lo ≤ hi) {m : Memory} (hm : Cells.canonFrom hi m = true) :
    Cells.canonFrom lo m = true := by
  cases m with
  | nil => rfl
  | cons c m =>
    obtain ⟨a, b⟩ := c
    simp only [Cells.canonFrom, Bool.and_eq_true, decide_eq_true_eq] at hm ⊢
    exact ⟨⟨by omega, hm.1.2⟩, hm.2⟩

theorem Cells.canonFrom_erase (k : Nat) {lo : Nat} {m : Memory} (hm : Cells.canonFrom lo m = true) :
    Cells.canonFrom lo (Cells.erase k m) = true := by
  induction m generalizing lo with
  | nil => rfl
  | cons c m ih =>
    obtain ⟨a, b⟩ := c
    simp only [Cells.canonFrom, Bool.and_eq_true, decide_eq_true_eq] at hm
    by_cases hk : a = k
    · simp only [Cells.erase, hk, if_true]
      exact Cells.canonFrom_mono (hi := a + 1) (by omega) (ih hm.2)
    · simp only [Cells.erase, hk, if_false, Cells.canonFrom, Bool.and_eq_true, decide_eq_true_eq]
      exact ⟨hm.1, ih hm.2⟩

theorem Cells.canonFrom_insert {k : Nat} {v : Byte} (hv : v ≠ 0#8) {lo : Nat} {m : Memory}
    (hm : Cells.canonFrom lo m = true) (hlo : lo ≤ k) (h : ∀ c ∈ m, c.1 ≠ k) :
    Cells.canonFrom lo (Cells.insert k v m) = true := by
  induction m generalizing lo with
  | nil => simp [Cells.insert, Cells.canonFrom, hv, hlo]
  | cons c m ih =>
    obtain ⟨a, b⟩ := c
    have ha : a ≠ k := h (a, b) (by simp)
    simp only [Cells.canonFrom, Bool.and_eq_true, decide_eq_true_eq] at hm
    by_cases hk : k < a
    · simp only [Cells.insert, hk, if_true, Cells.canonFrom, Bool.and_eq_true, decide_eq_true_eq]
      exact ⟨⟨hlo, hv⟩, ⟨by omega, hm.1.2⟩, hm.2⟩
    · simp only [Cells.insert, hk, if_false, Cells.canonFrom, Bool.and_eq_true, decide_eq_true_eq]
      exact ⟨hm.1, ih hm.2 (by omega) (fun c hc => h c (by simp [hc]))⟩

/-- A write keeps the canonical form. -/
theorem Memory.wf_write {m : Memory} (k : Nat) (v : Byte) (hm : Memory.wf m = true) :
    Memory.wf (Cells.write m k v) = true := by
  unfold Memory.wf Cells.write at *
  split
  · exact Cells.canonFrom_erase k hm
  · next hv => exact Cells.canonFrom_insert hv (Cells.canonFrom_erase k hm) (by omega) (Cells.erase_ne k m)

theorem Cells.all_erase {q : Host.Cell → Bool} (k : Nat) {m : Memory} (h : m.all q = true) :
    (Cells.erase k m).all q = true := by
  induction m with
  | nil => rfl
  | cons c m ih =>
    obtain ⟨a, b⟩ := c
    simp only [List.all_cons, Bool.and_eq_true] at h
    by_cases hk : a = k <;> simp [Cells.erase, hk, ih h.2, h.1]

theorem Cells.all_insert {q : Host.Cell → Bool} {k : Nat} {v : Byte} (hq : q (k, v) = true) {m : Memory}
    (h : m.all q = true) : (Cells.insert k v m).all q = true := by
  induction m with
  | nil => simp [Cells.insert, hq]
  | cons c m ih =>
    obtain ⟨a, b⟩ := c
    simp only [List.all_cons, Bool.and_eq_true] at h
    by_cases hk : k < a
    · simp only [Cells.insert, hk, if_true, List.all_cons, Bool.and_eq_true]
      exact ⟨hq, h⟩
    · simp only [Cells.insert, hk, if_false, List.all_cons, Bool.and_eq_true]
      exact ⟨h.1, ih h.2⟩

/-- A write below `n` keeps every listed address below `n`. -/
theorem Memory.below_write {n k : Nat} (hk : k < n) (v : Byte) {m : Memory} (hm : Memory.below n m = true) :
    Memory.below n (Cells.write m k v) = true := by
  unfold Memory.below Cells.write at *
  split
  · exact Cells.all_erase k hm
  · exact Cells.all_insert (by simpa using hk) (Cells.all_erase k hm)

/-- Canonical memories that read the same are the same data. -/
theorem Cells.read_lt {lo k : Nat} {m : Memory} (hm : Cells.canonFrom lo m = true) (hk : k < lo) :
    Cells.read m k = 0#8 := by
  induction m generalizing lo with
  | nil => rfl
  | cons c m ih =>
    obtain ⟨a, b⟩ := c
    simp only [Cells.canonFrom, Bool.and_eq_true, decide_eq_true_eq] at hm
    have ha : a ≠ k := by omega
    simp only [Cells.read, ha, if_false]
    exact ih hm.2 (by omega)

theorem Cells.read_out {n k : Nat} {m : Memory} (hm : Memory.below n m = true) (hk : n ≤ k) :
    Cells.read m k = 0#8 := by
  induction m with
  | nil => rfl
  | cons c m ih =>
    obtain ⟨a, b⟩ := c
    simp only [Memory.below, List.all_cons, Bool.and_eq_true, decide_eq_true_eq] at hm
    have ha : a ≠ k := by omega
    simp only [Cells.read, ha, if_false]
    exact ih hm.2

/-- Equal memories are equal data: two canonical lists with the same reads are one list. -/
theorem Cells.ext {lo : Nat} {m n : Memory} (hm : Cells.canonFrom lo m = true) (hn : Cells.canonFrom lo n = true)
    (h : ∀ k, Cells.read m k = Cells.read n k) : m = n := by
  induction m generalizing lo n with
  | nil =>
    cases n with
    | nil => rfl
    | cons c n =>
      obtain ⟨a, b⟩ := c
      simp only [Cells.canonFrom, Bool.and_eq_true, decide_eq_true_eq] at hn
      have := h a
      simp [Cells.read] at this
      exact absurd this.symm hn.1.2
  | cons c m ih =>
    obtain ⟨a, b⟩ := c
    simp only [Cells.canonFrom, Bool.and_eq_true, decide_eq_true_eq] at hm
    cases n with
    | nil =>
      have := h a
      simp [Cells.read] at this
      exact absurd this hm.1.2
    | cons d n =>
      obtain ⟨a', b'⟩ := d
      simp only [Cells.canonFrom, Bool.and_eq_true, decide_eq_true_eq] at hn
      have e : a = a' := by
        rcases Nat.lt_trichotomy a a' with hl | he | hl
        · have := h a
          simp [Cells.read, show a' ≠ a by omega, Cells.read_lt hn.2 (show a < a' + 1 by omega)] at this
          exact absurd this hm.1.2
        · exact he
        · have := h a'
          simp [Cells.read, show a ≠ a' by omega, Cells.read_lt hm.2 (show a' < a + 1 by omega)] at this
          exact absurd this.symm hn.1.2
      subst e
      have hb : b = b' := by simpa [Cells.read] using h a
      subst hb
      congr 1
      refine ih hm.2 hn.2 (fun k => ?_)
      have := h k
      by_cases hk : a = k
      · rw [Cells.read_lt hm.2 (by omega), Cells.read_lt hn.2 (by omega)]
      · simpa [Cells.read, hk] using this

/-! ### Flat addresses -/

theorem flat_toNat (seg off : Word) : (flat seg off).toNat = (seg.toNat * 16 + off.toNat) % 2 ^ 20 := by
  simp [flat]

/-- The two bytes of a word never coincide. -/
theorem second_ne (w : WordWrap) (seg off : Word) : second w seg off ≠ flat seg off := by
  intro h
  have h := congrArg BitVec.toNat h
  cases w
  · simp only [second, BitVec.toNat_add, flat_toNat, show (1 : Addr).toNat = 1 from rfl] at h
    omega
  · simp only [second, flat_toNat, BitVec.toNat_add, show (1 : Word).toNat = 1 from rfl] at h
    have := off.isLt
    omega

/-! ### Memory of a state -/

theorem State.memByte_poke (s : State) (a b : Addr) (v : Byte) :
    (s.poke a v).memByte b = if b = a ∧ a.toNat < s.params.memSize then v else s.memByte b := by
  by_cases ha : a.toNat < s.params.memSize
  · by_cases h : b = a
    · subst h; simp [State.memByte, State.poke, ha]
    · have hn : b.toNat ≠ a.toNat := fun e => h (BitVec.eq_of_toNat_eq e)
      simp [State.memByte, State.poke, ha, h, Cells.read_write_ne hn]
  · simp [State.memByte, State.poke, ha]

theorem State.memByte_congr {s t : State} (hm : s.mem = t.mem) (hp : s.params = t.params) (a : Addr) :
    s.memByte a = t.memByte a := by
  simp [State.memByte, hm, hp]

theorem State.memWrite_mem (s : State) (a : Addr) (v : Byte) : (s.memWrite a v).mem = (s.poke a v).mem := rfl

theorem State.memByte_memWrite (s : State) (a b : Addr) (v : Byte) :
    (s.memWrite a v).memByte b = if b = a ∧ a.toNat < s.params.memSize then v else s.memByte b := by
  rw [← State.memByte_poke]
  exact State.memByte_congr (State.memWrite_mem s a v) (by simp) b

/-- A byte a word store does not name reads as before. -/
theorem State.memByte_segWrite16_ne (s : State) (seg off v : Word) {b : Addr} (h1 : b ≠ flat seg off)
    (h2 : b ≠ second s.params.wordWrap seg off) : (s.segWrite16 seg off v).memByte b = s.memByte b := by
  simp [State.segWrite16, State.memByte_memWrite, h1, h2]

theorem State.memByte_segWrite8_ne (s : State) (seg off : Word) (v : Byte) {b : Addr} (h : b ≠ flat seg off) :
    (s.segWrite8 seg off v).memByte b = s.memByte b := by
  simp [State.segWrite8, State.memByte_memWrite, h]

theorem wordOf_bytes (v : Word) : wordOf (loByte v) (hiByte v) = v := by
  simp only [wordOf, loByte, hiByte]
  apply BitVec.eq_of_getLsbD_eq
  intro k hk
  simp only [BitVec.getLsbD_append, BitVec.getLsbD_extractLsb']
  by_cases h : k < 8
  · simp [h]
  · simp [h, show k - 8 < 8 by omega, show 8 + (k - 8) = k by omega]

@[simp] theorem loByte_wordOf (lo hi : Byte) : loByte (wordOf lo hi) = lo := by
  apply BitVec.eq_of_getLsbD_eq
  intro k hk
  simp only [wordOf, loByte, BitVec.getLsbD_append, BitVec.getLsbD_extractLsb', hk]
  simp [hk]

@[simp] theorem hiByte_wordOf (lo hi : Byte) : hiByte (wordOf lo hi) = hi := by
  apply BitVec.eq_of_getLsbD_eq
  intro k hk
  simp only [wordOf, hiByte, BitVec.getLsbD_append, BitVec.getLsbD_extractLsb', hk]
  simp [hk]

/-- What a word read returns. -/
theorem State.segRead16_fst (s : State) (seg off : Word) :
    (s.segRead16 seg off).1 = wordOf (s.memByte (flat seg off)) (s.memByte (second s.params.wordWrap seg off)) := by
  simp only [State.segRead16, State.memRead]
  rfl

/-- A word read after a word write of the same place gives the word written, when both bytes exist. -/
theorem State.segRead16_segWrite16 (s : State) (seg off v : Word) (h : s.holdsWord seg off) :
    ((s.segWrite16 seg off v).segRead16 seg off).1 = v := by
  rw [State.segRead16_fst]
  simp only [State.segWrite16_params]
  have hne := second_ne s.params.wordWrap seg off
  have h1 := h.1
  have h2 := h.2
  simp only [State.holds] at h1 h2
  simp only [State.segWrite16, State.memByte_memWrite, State.memWrite_params, h2, and_true, Ne.symm hne,
    if_false, h1, if_true, wordOf_bytes]

end Sys2Proof.Machine
end

