-- ==== Sys2Proof/Laws/Exec.lean ====
section
/-! SUPPORT. Everything the frame of an instruction can do, said once: the gate, the prefixes, the decode
error. -/

namespace Sys2Proof.Machine

/-- What `complete` answers: the rule's state, or the gate's. -/
theorem complete_eq (ps : List Prefix) (i : Instr) (body : Ins → State → State) (s : State) :
    complete ps i body s = .next (if gate s.params i then body (insAt ps i s) (s.start ps i)
      else (s.advance (ps.length + i.len)).setStatus (.unhandled i.cls (flat s.cs s.ip))) := by
  unfold complete State.start
  cases gate s.params i <;> simp [insAt]

theorem gate_of_executes {s : State} {i : Instr} (h : s.executes i) (hc : i.cls ≠ .esc) :
    gate s.params i = true := by
  unfold gate
  rcases h with h | h <;> cases hi : i.cls <;> simp_all

/-- An instruction the profile executes runs its rule from the start of step 4. -/
theorem complete_executes {ps : List Prefix} {i : Instr} {s : State} (body : Ins → State → State)
    (h : s.executes i) (hc : i.cls ≠ .esc) :
    complete ps i body s = .next (body (insAt ps i s) (s.start ps i)) := by
  rw [complete_eq, gate_of_executes h hc]; rfl

theorem exec_eq_runIn (i : Instr) (s : State) : exec i s = runIn [] i s := by
  cases i <;> rfl

theorem runIn_wrap (ps : List Prefix) (q : Prefix) (j : Instr) (s : State) (h : s.allows [q]) :
    runIn ps (q.wrap j) s = runIn (ps ++ [q]) j s := by
  cases q <;> try rfl
  have h : s.params.lockPrefix = .ignore := h (by simp)
  simp [Prefix.wrap, runIn, h]

theorem runIn_wrapAll (ps qs : List Prefix) (i : Instr) (s : State) (h : s.allows qs) :
    runIn ps (Prefix.wrapAll qs i) s = runIn (ps ++ qs) i s := by
  induction qs generalizing ps with
  | nil => simp [Prefix.wrapAll]
  | cons q qs ih =>
    have hq : s.allows [q] := fun hm => h (by simp at hm; simp [hm])
    have hqs : s.allows qs := fun hm => h (by simp [hm])
    have e : Prefix.wrapAll (q :: qs) i = q.wrap (Prefix.wrapAll qs i) := rfl
    rw [e, runIn_wrap ps q _ s hq, ih (ps ++ [q]) hqs]
    simp

/-- An instruction under prefixes runs the rule it has without them, in their context. -/
theorem exec_wrapAll (ps : List Prefix) (i : Instr) (s : State) (h : s.allows ps) :
    exec (Prefix.wrapAll ps i) s = runIn ps i s := by
  rw [exec_eq_runIn, runIn_wrapAll [] ps i s h]; rfl

/-- A LOCK the parameters do not allow is a decode error whatever stands before or after it (R307). -/
theorem exec_wrapAll_lock (ps : List Prefix) (i : Instr) (s : State) (h : ¬ s.allows ps) :
    ∃ bytes, exec (Prefix.wrapAll ps i) s = .next (s.decodeFailure .invalidOpcode bytes) := by
  rw [exec_eq_runIn]
  generalize hp : ([] : List Prefix) = pre
  clear hp
  induction ps generalizing pre with
  | nil => exact absurd (fun hm => by simp at hm) h
  | cons q qs ih =>
    have e : Prefix.wrapAll (q :: qs) i = q.wrap (Prefix.wrapAll qs i) := rfl
    rw [e]
    by_cases hq : s.allows [q]
    · rw [runIn_wrap pre q _ s hq]
      refine ih ?_ _
      intro hqs
      refine h (fun hm => ?_)
      rcases List.mem_cons.mp hm with rfl | hm
      · exact hq (by simp)
      · exact hqs hm
    · have hl : q = .lock := by
        by_contra hne
        exact hq (fun hm => absurd (by simpa using hm) (Ne.symm hne))
      subst hl
      have hn : s.params.lockPrefix ≠ .ignore := fun hi => hq (fun _ => hi)
      exact ⟨_, by simp [Prefix.wrap, runIn, hn, rejected]; rfl⟩

/-! ### What one call of a rule establishes -/

/-- An instruction whose meaning is `complete` of a rule runs that rule. -/
theorem runsWhen_of {i : Instr} {when : Ins → State → Prop} {rule body : Ins → State → State}
    (hb : ∀ ps s, runIn ps i s = complete ps i body s) (hc : i.cls ≠ .esc)
    (h : ∀ ins u, when ins u → body ins u = rule ins u) : RunsWhen i when rule := by
  intro ps s ha he hw
  rw [exec_wrapAll ps i s ha, hb, complete_executes body he hc, h _ _ hw]

/-- The same for a next state described by a property. -/
theorem runsTo_of {i : Instr} {post : Ins → State → State → Prop} {body : Ins → State → State}
    (hb : ∀ ps s, runIn ps i s = complete ps i body s) (hc : i.cls ≠ .esc)
    (h : ∀ ins u, u.status = .continued → post ins u (body ins u)) : RunsTo i post := by
  intro ps s ha he
  refine ⟨_, ?_, h (insAt ps i s) (s.start ps i) (by simp [State.start])⟩
  rw [exec_wrapAll ps i s ha, hb, complete_executes body he hc]

end Sys2Proof.Machine
end

