-- ==== Sys2Proof/Laws/Flags.lean ====
section
/-! SUPPORT. What the flag functions leave alone and what value they compute. -/

namespace Sys2Proof.Machine

/-- The value of an addition with carry. -/
@[simp] theorem addFlags_fst {w : Nat} (a b : BitVec w) (c : Bool) (f : Flags) :
    (addFlags a b c f).1 = a + b + BitVec.ofNat w c.toNat := by
  apply BitVec.eq_of_toNat_eq
  simp [addFlags, BitVec.toNat_add, Nat.add_mod]

/-- The value of a subtraction with borrow. -/
@[simp] theorem subFlags_fst {w : Nat} (a b : BitVec w) (c : Bool) (f : Flags) :
    (subFlags a b c f).1 = a - b - BitVec.ofNat w c.toNat := by
  apply BitVec.eq_of_toInt_eq
  simp only [subFlags]
  rw [BitVec.toInt_ofInt, BitVec.toInt_sub, BitVec.toInt_sub, BitVec.toInt_ofNat']
  simp [BitVec.toInt_eq_toNat_bmod]

@[simp] theorem szp_ZF {w : Nat} (r : BitVec w) (f : Flags) : (szp r f).ZF = decide (r = 0#w) := rfl
@[simp] theorem szp_SF {w : Nat} (r : BitVec w) (f : Flags) : (szp r f).SF = r.msb := rfl
@[simp] theorem szp_PF {w : Nat} (r : BitVec w) (f : Flags) : (szp r f).PF = parity r := rfl
@[simp] theorem szp_CF {w : Nat} (r : BitVec w) (f : Flags) : (szp r f).CF = f.CF := rfl
@[simp] theorem szp_AF {w : Nat} (r : BitVec w) (f : Flags) : (szp r f).AF = f.AF := rfl
@[simp] theorem szp_OF {w : Nat} (r : BitVec w) (f : Flags) : (szp r f).OF = f.OF := rfl
@[simp] theorem szp_TF {w : Nat} (r : BitVec w) (f : Flags) : (szp r f).TF = f.TF := rfl
@[simp] theorem szp_IF {w : Nat} (r : BitVec w) (f : Flags) : (szp r f).IF = f.IF := rfl
@[simp] theorem szp_DF {w : Nat} (r : BitVec w) (f : Flags) : (szp r f).DF = f.DF := rfl

end Sys2Proof.Machine
end

