-- ==== Sys2Proof/Laws/Ops.lean ====
section
/-! SUPPORT. For each shared operation, once, everything it can change (`Keeps`), and that it keeps the
invariant of the state. -/

namespace Sys2Proof.Machine

/-! ### Composing -/

/-- Every part of one footprint is in the other. -/
def Footprint.le (a b : Footprint) : Prop :=
  (∀ r ∈ a.words, r ∈ b.words) ∧ (∀ h ∈ a.halves, h ∈ b.halves ∨ Reg8.whole h ∈ b.words) ∧
  (∀ g ∈ a.segs, g ∈ b.segs) ∧ (∀ n ∈ a.flags, n ∈ b.flags) ∧ (∀ x ∈ a.bytes, x ∈ b.bytes) ∧
  (∀ p ∈ a.ports, p ∈ b.ports)

theorem Keeps.refl (s : State) (fp : Footprint) : Keeps s s fp := by
  unfold Keeps; simp

theorem Keeps.mono {s t : State} {a b : Footprint} (h : Keeps s t a) (hab : a.le b) : Keeps s t b := by
  obtain ⟨h1, h2, h3, h4, h5, h6, h7⟩ := h
  obtain ⟨w1, w2, w3, w4, w5, w6⟩ := hab
  refine ⟨fun r hr hh => h1 r (fun hm => hr (w1 r hm)) (fun k hk => ?_), fun k hk hw => h2 k ?_ ?_,
    fun g hg => h3 g (fun hm => hg (w3 g hm)), fun n hn => h4 n (fun hm => hn (w4 n hm)),
    fun x hx => h5 x (fun hm => hx (w5 x hm)), fun p hp => h6 p (fun hm => hp (w6 p hm)), h7⟩
  · rcases w2 k hk with h | h
    · exact hh k h
    · exact fun e => hr (e ▸ h)
  · exact fun hm => (w2 k hm).elim hk hw
  · exact fun hm => hw (w1 _ hm)

theorem Keeps.trans {s t u : State} {a b : Footprint} (h : Keeps s t a) (k : Keeps t u b) :
    Keeps s u (a.join b) := by
  obtain ⟨h1, h2, h3, h4, h5, h6, h7⟩ := h
  obtain ⟨k1, k2, k3, k4, k5, k6, k7⟩ := k
  unfold Keeps Footprint.join
  simp only [List.mem_append, not_or]
  exact ⟨fun r hr hh => (k1 r hr.2 (fun x hx => hh x (.inr hx))).trans (h1 r hr.1 (fun x hx => hh x (.inl hx))),
    fun r hr hw => (k2 r hr.2 hw.2).trans (h2 r hr.1 hw.1), fun g hg => (k3 g hg.2).trans (h3 g hg.1),
    fun n hn => (k4 n hn.2).trans (h4 n hn.1), fun x hx => (k5 x hx.2).trans (h5 x hx.1),
    fun p hp => (k6 p hp.2).trans (h6 p hp.1), k7.trans h7⟩

/-- Two steps that stay inside one footprint. -/
theorem Keeps.comp {s t u : State} {a : Footprint} (h : Keeps s t a) (k : Keeps t u a) : Keeps s u a :=
  (h.trans k).mono ⟨by simp [Footprint.join], fun x hx => .inl (by simpa [Footprint.join] using hx),
    by simp [Footprint.join], by simp [Footprint.join], by simp [Footprint.join], by simp [Footprint.join]⟩

/-! ### Registers by name -/

theorem State.getR16_setR16 (s : State) (r q : Reg16) (v : Word) :
    (s.setR16 r v).getR16 q = if q = r then v else s.getR16 q := by
  cases r <;> cases q <;> rfl

theorem State.getR8_setR16_ne (s : State) {r : Reg16} {h : Reg8} (hne : Reg8.whole h ≠ r) (v : Word) :
    (s.setR16 r v).getR8 h = s.getR8 h := by
  simp [State.getR8, State.getR16_setR16, hne]

theorem State.getSReg_setSReg (s : State) (r q : SReg) (v : Word) :
    (s.setSReg r v).getSReg q = if q = r then v else s.getSReg q := by
  cases r <;> cases q <;> rfl

theorem State.getR8_setR8 (s : State) (r q : Reg8) (v : Byte) :
    (s.setR8 r v).getR8 q = if q = r then v else s.getR8 q := by
  cases r <;> cases q <;> simp [State.getR8, State.setR8, State.getR16, State.setR16, Reg8.whole, Reg8.isHigh]

theorem State.getR16_setR8_ne (s : State) {r : Reg8} {q : Reg16} (h : Reg8.whole r ≠ q) (v : Byte) :
    (s.setR8 r v).getR16 q = s.getR16 q := by
  simp [State.setR8, State.getR16_setR16, Ne.symm h]

theorem State.getR16_congr {s t : State} (h : t.ax = s.ax ∧ t.cx = s.cx ∧ t.dx = s.dx ∧ t.bx = s.bx ∧
    t.sp = s.sp ∧ t.bp = s.bp ∧ t.si = s.si ∧ t.di = s.di) (r : Reg16) : t.getR16 r = s.getR16 r := by
  obtain ⟨h1, h2, h3, h4, h5, h6, h7, h8⟩ := h
  cases r <;> assumption

theorem State.getSReg_congr {s t : State} (h : t.es = s.es ∧ t.cs = s.cs ∧ t.ss = s.ss ∧ t.ds = s.ds) (g : SReg) :
    t.getSReg g = s.getSReg g := by
  obtain ⟨h1, h2, h3, h4⟩ := h
  cases g <;> assumption

theorem State.getR8_congr {s t : State} (h : ∀ r, t.getR16 r = s.getR16 r) (r : Reg8) : t.getR8 r = s.getR8 r := by
  simp [State.getR8, h]

/-! ### What each operation keeps -/

/-- Enough for an operation that leaves the registers alone. -/
theorem Keeps.of_regs {s t : State} {fp : Footprint} (h16 : ∀ r, t.getR16 r = s.getR16 r)
    (hs : ∀ g, t.getSReg g = s.getSReg g) (hf : ∀ n, n ∉ fp.flags → t.flags.get n = s.flags.get n)
    (hm : ∀ a, a ∉ fp.bytes → t.memByte a = s.memByte a) (hp : ∀ p, p ∉ fp.ports → t.portByte p = s.portByte p)
    (hq : t.params = s.params) : Keeps s t fp :=
  ⟨fun r _ _ => h16 r, fun r _ _ => State.getR8_congr h16 r, fun g _ => hs g, hf, hm, hp, hq⟩

/-- Enough for an operation that leaves the whole state tuple and the parameters alone. -/
theorem Keeps.of_tuple {s t : State} (h : t.sameTuple s) (hq : t.params = s.params) (fp : Footprint) :
    Keeps s t fp := by
  obtain ⟨h1, h2, h3, h4, h5, h6, h7, h8, h9, h10, h11, h12, -, hf, hm, hp⟩ := h
  exact Keeps.of_regs (State.getR16_congr ⟨h1, h2, h3, h4, h5, h6, h7, h8⟩) (State.getSReg_congr ⟨h9, h10, h11, h12⟩)
    (fun n _ => by rw [hf]) (fun a _ => State.memByte_congr hm hq a) (fun p _ => by rw [State.portByte, hp]; rfl) hq

theorem keeps_setR16 (s : State) (r : Reg16) (v : Word) : Keeps s (s.setR16 r v) { words := [r] } := by
  refine ⟨fun q hq _ => ?_, fun q _ hq => ?_, fun g _ => ?_, fun n _ => by simp, fun a _ => ?_, fun p _ => ?_, by simp⟩
  · simp only [List.mem_singleton] at hq; simp [State.getR16_setR16, hq]
  · simp only [List.mem_singleton] at hq; exact State.getR8_setR16_ne s hq v
  · exact State.getSReg_congr (by simp) g
  · exact State.memByte_congr (by simp) (by simp) a
  · simp [State.portByte]

theorem keeps_setR8 (s : State) (r : Reg8) (v : Byte) : Keeps s (s.setR8 r v) { halves := [r] } := by
  refine ⟨fun q _ hq => ?_, fun q hq _ => ?_, fun g _ => ?_, fun n _ => by simp, fun a _ => ?_, fun p _ => ?_, by simp⟩
  · exact State.getR16_setR8_ne s (hq r (by simp)) v
  · simp only [List.mem_singleton] at hq; simp [State.getR8_setR8, hq]
  · exact State.getSReg_congr (by simp) g
  · exact State.memByte_congr (by simp) (by simp) a
  · simp [State.portByte]

theorem keeps_setSReg (s : State) (g : SReg) (v : Word) : Keeps s (s.setSReg g v) { segs := [g] } := by
  have h16 : ∀ r, (s.setSReg g v).getR16 r = s.getR16 r := State.getR16_congr (by simp)
  refine ⟨fun q _ _ => h16 q, fun q _ _ => State.getR8_congr h16 q, fun q hq => ?_, fun n _ => by simp, fun a _ => ?_,
    fun p _ => ?_, by simp⟩
  · simp only [List.mem_singleton] at hq; simp [State.getSReg_setSReg, hq]
  · exact State.memByte_congr (by simp) (by simp) a
  · simp [State.portByte]

theorem keeps_setIp (s : State) (v : Word) (fp : Footprint) : Keeps s (s.setIp v) fp :=
  Keeps.of_regs (State.getR16_congr (by simp)) (State.getSReg_congr (by simp)) (fun _ _ => by simp)
    (fun a _ => State.memByte_congr (by simp) (by simp) a) (fun _ _ => by simp [State.portByte]) (by simp)

theorem keeps_setStatus (s : State) (x : Status) (fp : Footprint) : Keeps s (s.setStatus x) fp :=
  Keeps.of_tuple (by simp [State.sameTuple]) (by simp) fp

theorem keeps_advance (s : State) (n : Nat) (fp : Footprint) : Keeps s (s.advance n) fp := keeps_setIp s _ fp

theorem keeps_start (s : State) (ps : List Prefix) (i : Instr) (fp : Footprint) : Keeps s (s.start ps i) fp :=
  (keeps_advance s _ fp).comp (keeps_setStatus _ _ fp)

theorem keeps_decodeFailure (s : State) (why : DecodeReason) (bs : List Byte) (fp : Footprint) :
    Keeps s (s.decodeFailure why bs) fp := keeps_setStatus s _ fp

/-- New flags change only the flags that differ. -/
theorem keeps_setFlags (s : State) (f : Flags) {fp : Footprint} (h : ∀ n, n ∉ fp.flags → f.get n = s.flags.get n) :
    Keeps s (s.setFlags f) fp :=
  Keeps.of_regs (State.getR16_congr (by simp)) (State.getSReg_congr (by simp)) (fun n hn => by simpa using h n hn)
    (fun a _ => State.memByte_congr (by simp) (by simp) a) (fun _ _ => by simp [State.portByte]) (by simp)

/-- The flag name of a status flag. -/
def StatusFlag.name : StatusFlag → FlagName
  | .CF => .CF
  | .PF => .PF
  | .AF => .AF
  | .ZF => .ZF
  | .SF => .SF
  | .OF => .OF

theorem Flags.get_put_ne (f : Flags) (n : StatusFlag) (b : Bool) {m : FlagName} (h : m ≠ n.name) :
    (f.put n b).get m = f.get m := by
  cases n <;> cases m <;> first | rfl | exact absurd rfl h

theorem keeps_drawFlag (s : State) (n : StatusFlag) : Keeps s (s.drawFlag n) { flags := [n.name] } :=
  Keeps.of_regs (State.getR16_congr (by simp)) (State.getSReg_congr (by simp))
    (fun m hm => by
      simp only [List.mem_singleton] at hm
      exact Flags.get_put_ne s.flags n _ hm)
    (fun a _ => State.memByte_congr (by simp) (by simp) a) (fun _ _ => by simp [State.portByte]) (by simp)

theorem keeps_drawFlags (s : State) (ns : List StatusFlag) :
    Keeps s (s.drawFlags ns) { flags := ns.map StatusFlag.name } := by
  simp only [State.drawFlags]
  induction ns generalizing s with
  | nil => exact Keeps.refl s _
  | cons n ns ih =>
    simp only [List.foldl_cons]
    exact ((keeps_drawFlag s n).trans (ih (s.drawFlag n))).mono
      ⟨by simp [Footprint.join], by simp [Footprint.join], by simp [Footprint.join], by simp [Footprint.join],
        by simp [Footprint.join], by simp [Footprint.join]⟩

theorem keeps_read (s : State) {w : Nat} (l : Loc w) (fp : Footprint) : Keeps s (s.read l).2 fp :=
  Keeps.of_tuple (by simp [State.sameTuple]) (by simp) fp

theorem keeps_segRead8 (s : State) (x y : Word) (fp : Footprint) : Keeps s (s.segRead8 x y).2 fp :=
  Keeps.of_tuple (by simp [State.sameTuple]) (by simp) fp

theorem keeps_segRead16 (s : State) (x y : Word) (fp : Footprint) : Keeps s (s.segRead16 x y).2 fp :=
  Keeps.of_tuple (by simp [State.sameTuple]) (by simp) fp

theorem keeps_readFar (s : State) (ins : Ins) (m : MemOp) (fp : Footprint) : Keeps s (s.readFar ins m).2 fp :=
  Keeps.of_tuple (by simp [State.sameTuple]) (by simp) fp

theorem keeps_segWrite8 (s : State) (x y : Word) (v : Byte) :
    Keeps s (s.segWrite8 x y v) { bytes := [flat x y] } :=
  Keeps.of_regs (State.getR16_congr (by simp)) (State.getSReg_congr (by simp)) (fun _ _ => by simp)
    (fun a ha => by
      simp only [List.mem_singleton] at ha
      exact State.memByte_segWrite8_ne s x y v ha)
    (fun _ _ => by simp [State.portByte]) (by simp)

theorem keeps_segWrite16 (s : State) (x y : Word) (v : Word) :
    Keeps s (s.segWrite16 x y v) { bytes := wordAddrs s.params.wordWrap x y } :=
  Keeps.of_regs (State.getR16_congr (by simp)) (State.getSReg_congr (by simp)) (fun _ _ => by simp)
    (fun a ha => by
      simp only [wordAddrs, List.mem_cons, List.not_mem_nil, or_false, not_or] at ha
      exact State.memByte_segWrite16_ne s x y v ha.1 ha.2)
    (fun _ _ => by simp [State.portByte]) (by simp)

/-- Writing an operand changes only that operand. -/
theorem keeps_write (s : State) {w : Nat} (l : Loc w) (v : BitVec w) :
    Keeps s (s.write l v) (writeFootprint s.params.wordWrap l) := by
  cases l with
  | r8 r => exact keeps_setR8 s r v
  | r16 r => exact keeps_setR16 s r v
  | sreg g => exact keeps_setSReg s g v
  | imm8 x => exact Keeps.refl s _
  | imm16 x => exact Keeps.refl s _
  | mem8 a b => exact keeps_segWrite8 s a b v
  | mem16 a b => exact keeps_segWrite16 s a b v

theorem keeps_push16 (s : State) (v : Word) : Keeps s (s.push16 v) (pushFootprint s) := by
  refine ((keeps_setR16 s .sp (s.sp - 2)).trans (keeps_segWrite16 _ _ _ v)).mono ?_
  refine ⟨?_, ?_, ?_, ?_, ?_, ?_⟩ <;> simp [Footprint.join, pushFootprint]

theorem keeps_pop16 (s : State) : Keeps s s.pop16.2 { words := [.sp] } :=
  ((keeps_segRead16 s s.ss s.sp {}).trans (keeps_setR16 _ .sp _)).mono (by
    refine ⟨?_, ?_, ?_, ?_, ?_, ?_⟩ <;> simp [Footprint.join])

theorem keeps_drawByte (s : State) (fp : Footprint) : Keeps s s.drawByte.2 fp :=
  Keeps.of_tuple (by simp [State.sameTuple]) (by simp) fp

theorem keeps_portIn8 (s : State) (p : Word) (fp : Footprint) : Keeps s (s.portIn8 p).2 fp :=
  Keeps.of_tuple (by simp [State.sameTuple]) (by simp) fp

theorem keeps_portIn16 (s : State) (p : Word) (fp : Footprint) : Keeps s (s.portIn16 p).2 fp :=
  Keeps.of_tuple (by simp [State.sameTuple]) (by simp) fp

theorem State.portByte_portOut8 (s : State) (p q : Word) (v : Byte) :
    (s.portOut8 p v).portByte q = if q = p then v else s.portByte q := by
  simp only [State.portByte, State.portOut8, Cells.read_write]
  by_cases h : q = p
  · simp [h]
  · have : q.toNat ≠ p.toNat := fun e => h (BitVec.eq_of_toNat_eq e)
    simp [h, this]

theorem keeps_portOut8 (s : State) (p : Word) (v : Byte) : Keeps s (s.portOut8 p v) { ports := [p] } :=
  Keeps.of_regs (State.getR16_congr (by simp)) (State.getSReg_congr (by simp)) (fun _ _ => by simp)
    (fun a _ => State.memByte_congr (by simp) (by simp) a)
    (fun q hq => by
      simp only [List.mem_singleton] at hq
      simp [State.portByte_portOut8, hq])
    (by simp)

theorem keeps_portOut16 (s : State) (p v : Word) : Keeps s (s.portOut16 p v) { ports := [p, p + 1] } :=
  ((keeps_portOut8 s p (loByte v)).trans (keeps_portOut8 _ (p + 1) (hiByte v))).mono (by
    refine ⟨?_, ?_, ?_, ?_, ?_, ?_⟩ <;> simp [Footprint.join])

/-- Interrupt entry changes SP, CS, ip, IF, TF and the six bytes below the old SP, nothing else (R1131). -/
theorem keeps_interruptEntry (s : State) (n : Byte) : Keeps s (s.interruptEntry n) (entryFootprint s) := by
  unfold State.interruptEntry
  simp only
  have h1 := keeps_push16 s s.packed
  have h2 := keeps_setFlags (s.push16 s.packed)
    { (s.push16 s.packed).flags with IF := false, TF := false } (fp := { flags := [.IF, .TF] })
    (fun m hm => by cases m <;> first | rfl | simp at hm)
  generalize hb : (s.push16 s.packed).setFlags
    { (s.push16 s.packed).flags with IF := false, TF := false } = b at *
  have hbss : b.ss = s.ss := by simp [← hb]
  have hbsp : b.sp = s.sp - 2 := by simp [← hb]
  have hbp : b.params = s.params := by simp [← hb]
  have h3 := keeps_push16 b b.cs
  have h4 := keeps_push16 (b.push16 b.cs) (b.push16 b.cs).ip
  generalize hd : (b.push16 b.cs).push16 (b.push16 b.cs).ip = d at *
  have h5 := keeps_segRead16 d 0 (BitVec.ofNat 16 (4 * n.toNat)) {}
  have h6 := keeps_segRead16 (d.segRead16 0 (BitVec.ofNat 16 (4 * n.toNat))).2 0 (BitVec.ofNat 16 (4 * n.toNat) + 2) {}
  refine ((((((((h1.trans h2).trans h3).trans h4).trans h5).trans h6).trans (keeps_setIp _ _ {})).trans
    (keeps_setSReg _ .cs _))).mono ?_
  have e1 : s.sp - 2 - 2 = s.sp - 4 := by
    rw [BitVec.sub_sub]; rfl
  have e2 : s.sp - 4 - 2 = s.sp - 6 := by
    rw [BitVec.sub_sub]; rfl
  refine ⟨?_, ?_, ?_, ?_, ?_, ?_⟩
  · simp [Footprint.join, pushFootprint, entryFootprint]
  · simp [Footprint.join, pushFootprint]
  · simp [Footprint.join, pushFootprint, entryFootprint]
  · simp [Footprint.join, pushFootprint, entryFootprint]
  · simp only [Footprint.join, pushFootprint, entryFootprint, State.push16_params, State.push16_ss, State.push16_sp,
      hbss, hbsp, hbp, e1, e2]
    intro x hx
    simpa [or_assoc] using hx
  · simp [Footprint.join, pushFootprint]

/-- IRET's effect (R1133). -/
theorem keeps_interruptReturn (s : State) :
    Keeps s s.interruptReturn { words := [.sp], segs := [.cs], flags := statusFlags ++ [.TF, .IF, .DF] } := by
  unfold State.interruptReturn
  simp only
  refine (((((((keeps_pop16 s).trans (keeps_setIp _ _ {})).trans (keeps_pop16 _)).trans
    (keeps_setSReg _ .cs _)).trans (keeps_pop16 _)).trans
    (keeps_setFlags _ _ (fp := { flags := statusFlags ++ [.TF, .IF, .DF] }) ?_))).mono ?_
  · intro n hn
    cases n <;> simp [statusFlags] at hn
  · refine ⟨?_, ?_, ?_, ?_, ?_, ?_⟩ <;> simp [Footprint.join]

theorem keeps_divideError (s : State) (c : DivCause) (ins : Ins) :
    Keeps s (s.divideError c ins) (divideErrorFootprint s) := by
  unfold State.divideError divideErrorFootprint
  cases s.params.divErrorMode
  · exact keeps_setStatus s _ _
  · exact keeps_interruptEntry s 0#8

/-! ### The invariant -/

theorem State.inv_congr {s t : State} (hm : t.mem = s.mem) (hp : t.ports = s.ports) (hq : t.params = s.params) :
    t.inv = s.inv := by
  simp [State.inv, hm, hp, hq]

theorem State.inv_memWrite {s : State} (a : Addr) (v : Byte) (h : s.inv = true) : (s.memWrite a v).inv = true := by
  simp only [State.inv, Bool.and_eq_true, State.memWrite_params, State.memWrite_ports] at h ⊢
  obtain ⟨⟨⟨h1, h2⟩, h3⟩, h4⟩ := h
  have hm : (s.memWrite a v).mem = if a.toNat < s.params.memSize then Cells.write s.mem a.toNat v else s.mem := rfl
  rw [hm]
  split
  · next ha => exact ⟨⟨⟨Memory.wf_write _ _ h1, Memory.below_write ha v h2⟩, h3⟩, h4⟩
  · exact ⟨⟨⟨h1, h2⟩, h3⟩, h4⟩

theorem State.inv_segWrite8 {s : State} (x y : Word) (v : Byte) (h : s.inv = true) :
    (s.segWrite8 x y v).inv = true := State.inv_memWrite _ _ h

theorem State.inv_segWrite16 {s : State} (x y v : Word) (h : s.inv = true) : (s.segWrite16 x y v).inv = true :=
  State.inv_memWrite _ _ (State.inv_memWrite _ _ h)

theorem State.inv_portOut8 {s : State} (p : Word) (v : Byte) (h : s.inv = true) : (s.portOut8 p v).inv = true := by
  simp only [State.inv, Bool.and_eq_true, State.portOut8_params, State.portOut8_mem] at h ⊢
  obtain ⟨⟨⟨h1, h2⟩, h3⟩, h4⟩ := h
  have hm : (s.portOut8 p v).ports = Cells.write s.ports p.toNat v := rfl
  rw [hm]
  exact ⟨⟨⟨h1, h2⟩, Memory.wf_write _ _ h3⟩, Memory.below_write p.isLt v h4⟩

theorem State.inv_write {s : State} {w : Nat} (l : Loc w) (v : BitVec w) (h : s.inv = true) :
    (s.write l v).inv = true := by
  cases l with
  | r8 r => exact (State.inv_congr (by simp [State.write]) (by simp) (by simp)).trans h
  | r16 r => exact (State.inv_congr (by simp [State.write]) (by simp) (by simp)).trans h
  | sreg g => exact (State.inv_congr (by simp [State.write]) (by simp) (by simp)).trans h
  | imm8 x => exact h
  | imm16 x => exact h
  | mem8 a b => exact State.inv_segWrite8 a b v h
  | mem16 a b => exact State.inv_segWrite16 a b v h

theorem State.inv_push16 {s : State} (v : Word) (h : s.inv = true) : (s.push16 v).inv = true :=
  State.inv_segWrite16 _ _ _ ((State.inv_congr (by simp) (by simp) (by simp)).trans h)

theorem State.inv_interruptEntry {s : State} (n : Byte) (h : s.inv = true) : (s.interruptEntry n).inv = true := by
  unfold State.interruptEntry
  simp only
  have h1 := State.inv_push16 s.packed h
  have h2 : ((s.push16 s.packed).setFlags
      { (s.push16 s.packed).flags with IF := false, TF := false }).inv = true :=
    (State.inv_congr (by simp) (by simp) (by simp)).trans h1
  generalize (s.push16 s.packed).setFlags { (s.push16 s.packed).flags with IF := false, TF := false } = b at *
  have h4 := State.inv_push16 (b.push16 b.cs).ip (State.inv_push16 b.cs h2)
  exact (State.inv_congr (by simp) (by simp) (by simp)).trans h4

end Sys2Proof.Machine
end

