-- ==== Sys2Proof/Laws/PerInstr.lean ====
section
/-! SUPPORT. For every instruction: its encoding has as many bytes as its size says (R344). -/

namespace Sys2Proof.Laws.Size

/-- The encoding of `i` has `i.len` bytes. -/
def Statement (i : Instr) : Prop := i.encode.length = i.len

/-! ### Operand forms -/

theorem memOp (reg : BitVec 3) (m : MemOp) : (m.encode reg).length = 1 + m.dlen := by
  cases m <;> rfl

theorem rm {ρ : Type} (num : ρ → BitVec 3) (reg : BitVec 3) (e : Rm ρ) : (e.encode num reg).length = 1 + e.dlen := by
  cases e with
  | reg r => rfl
  | mem m => exact memOp reg m

theorem alu (op : BitVec 3) (f : AluForm) : (f.encode op).length = f.len := by
  cases f <;> simp [AluForm.encode, AluForm.len, encB, encW, rm, wordBytes] <;> omega

theorem testForm (f : TestForm) : f.encode.length = f.len := by
  cases f <;> simp [TestForm.encode, TestForm.len, encB, encW, rm, wordBytes] <;> omega

theorem incForm (op : BitVec 3) (f : IncForm) : (f.encode op).length = f.len := by
  cases f <;> simp [IncForm.encode, IncForm.len, encB, encW, rm] <;> omega

theorem unForm (reg : BitVec 3) (f : UnForm) : (f.encode reg).length = f.len := by
  cases f <;> simp [UnForm.encode, UnForm.len, encB, encW, rm] <;> omega

theorem shiftForm (reg : BitVec 3) (f : ShiftForm) : (f.encode reg).length = f.len := by
  cases f <;> simp [ShiftForm.encode, ShiftForm.len, encB, encW, rm] <;> omega

theorem movForm (f : MovForm) : f.encode.length = f.len := by
  cases f <;> simp [MovForm.encode, MovForm.len, encB, encW, rm, wordBytes] <;> omega

theorem xchgForm (f : XchgForm) : f.encode.length = f.len := by
  cases f <;> simp [XchgForm.encode, XchgForm.len, encB, encW, rm] <;> omega

theorem pushForm (f : StackForm) : f.encodePush.length = f.len := by
  cases f <;> simp [StackForm.encodePush, StackForm.len, encW, rm] <;> omega

theorem popForm (f : StackForm) : f.encodePop.length = f.len := by
  cases f <;> simp [StackForm.encodePop, StackForm.len, encW, rm] <;> omega

theorem jmpForm (f : JmpForm) : f.encode.length = f.len := by
  cases f <;> simp [JmpForm.encode, JmpForm.len, encW, rm, wordBytes] <;> omega

theorem callForm (f : CallForm) : f.encode.length = f.len := by
  cases f <;> simp [CallForm.encode, CallForm.len, encW, rm, wordBytes] <;> omega

theorem farForm (op : Byte) (reg : BitVec 3) (f : FarForm) : (f.encode op reg).length = f.len := by
  cases f <;> simp [FarForm.encode, FarForm.len, memOp, wordBytes] <;> omega

theorem retForm (op : Byte) (f : RetForm) : (f.encode op).length = f.len := by
  cases f <;> rfl

theorem portForm (op : Byte) (f : PortForm) : (f.encode op).length = f.len := by
  cases f <;> rfl

/-! ### The instructions -/

/-- All of them at once. -/
theorem every (i : Instr) : Statement i := by
  unfold Statement
  induction i with
  | es j ih => simp [Instr.encode, Instr.len, ih]
  | cs j ih => simp [Instr.encode, Instr.len, ih]
  | ss j ih => simp [Instr.encode, Instr.len, ih]
  | ds j ih => simp [Instr.encode, Instr.len, ih]
  | rep j ih => simp [Instr.encode, Instr.len, ih]
  | repne j ih => simp [Instr.encode, Instr.len, ih]
  | lock j ih => simp [Instr.encode, Instr.len, ih]
  | invalid why bytes => rfl
  | add f => exact alu _ f
  | adc f => exact alu _ f
  | sub f => exact alu _ f
  | sbb f => exact alu _ f
  | cmp f => exact alu _ f
  | inc f => exact incForm _ f
  | dec f => exact incForm _ f
  | neg f => exact unForm _ f
  | mul f => exact unForm _ f
  | imul f => exact unForm _ f
  | div f => exact unForm _ f
  | idiv f => exact unForm _ f
  | daa => rfl
  | das => rfl
  | aaa => rfl
  | aas => rfl
  | aam n => rfl
  | aad n => rfl
  | cbw => rfl
  | cwd => rfl
  | and f => exact alu _ f
  | or f => exact alu _ f
  | xor f => exact alu _ f
  | test f => exact testForm f
  | not f => exact unForm _ f
  | rol f => exact shiftForm _ f
  | ror f => exact shiftForm _ f
  | rcl f => exact shiftForm _ f
  | rcr f => exact shiftForm _ f
  | shl f => exact shiftForm _ f
  | shr f => exact shiftForm _ f
  | sar f => exact shiftForm _ f
  | mov f => exact movForm f
  | xchg f => exact xchgForm f
  | nop => rfl
  | lea g m => simp [Instr.encode, Instr.len, memOp]; omega
  | lds g m => simp [Instr.encode, Instr.len, memOp]; omega
  | les g m => simp [Instr.encode, Instr.len, memOp]; omega
  | xlat => rfl
  | lahf => rfl
  | sahf => rfl
  | push f => exact pushForm f
  | pop f => exact popForm f
  | pushf => rfl
  | popf => rfl
  | movsb => rfl
  | movsw => rfl
  | cmpsb => rfl
  | cmpsw => rfl
  | scasb => rfl
  | scasw => rfl
  | lodsb => rfl
  | lodsw => rfl
  | stosb => rfl
  | stosw => rfl
  | jmp f => exact jmpForm f
  | jmpf f => exact farForm _ _ f
  | jo d => rfl
  | jno d => rfl
  | jb d => rfl
  | jnb d => rfl
  | jz d => rfl
  | jnz d => rfl
  | jbe d => rfl
  | ja d => rfl
  | js d => rfl
  | jns d => rfl
  | jp d => rfl
  | jnp d => rfl
  | jl d => rfl
  | jnl d => rfl
  | jle d => rfl
  | jg d => rfl
  | jcxz d => rfl
  | loop d => rfl
  | loopz d => rfl
  | loopnz d => rfl
  | call f => exact callForm f
  | callf f => exact farForm _ _ f
  | ret f => exact retForm _ f
  | retf f => exact retForm _ f
  | int n => rfl
  | int3 => rfl
  | into => rfl
  | iret => rfl
  | inp f => exact portForm _ f
  | out f => exact portForm _ f
  | clc => rfl
  | stc => rfl
  | cmc => rfl
  | cld => rfl
  | std => rfl
  | cli => rfl
  | sti => rfl
  | hlt => rfl
  | wait => rfl
  | esc n reg e => simp [Instr.encode, Instr.len, rm]; omega

theorem es (j : Instr) : Statement (.es j) := every _
theorem cs (j : Instr) : Statement (.cs j) := every _
theorem ss (j : Instr) : Statement (.ss j) := every _
theorem ds (j : Instr) : Statement (.ds j) := every _
theorem rep (j : Instr) : Statement (.rep j) := every _
theorem repne (j : Instr) : Statement (.repne j) := every _
theorem lock (j : Instr) : Statement (.lock j) := every _
theorem invalid (why : DecodeReason) (bytes : List Byte) : Statement (.invalid why bytes) := every _
theorem add (f : AluForm) : Statement (.add f) := every _
theorem adc (f : AluForm) : Statement (.adc f) := every _
theorem sub (f : AluForm) : Statement (.sub f) := every _
theorem sbb (f : AluForm) : Statement (.sbb f) := every _
theorem cmp (f : AluForm) : Statement (.cmp f) := every _
theorem inc (f : IncForm) : Statement (.inc f) := every _
theorem dec (f : IncForm) : Statement (.dec f) := every _
theorem neg (f : UnForm) : Statement (.neg f) := every _
theorem mul (f : UnForm) : Statement (.mul f) := every _
theorem imul (f : UnForm) : Statement (.imul f) := every _
theorem div (f : UnForm) : Statement (.div f) := every _
theorem idiv (f : UnForm) : Statement (.idiv f) := every _
theorem daa : Statement .daa := every _
theorem das : Statement .das := every _
theorem aaa : Statement .aaa := every _
theorem aas : Statement .aas := every _
theorem aam (n : Byte) : Statement (.aam n) := every _
theorem aad (n : Byte) : Statement (.aad n) := every _
theorem cbw : Statement .cbw := every _
theorem cwd : Statement .cwd := every _
theorem and (f : AluForm) : Statement (.and f) := every _
theorem or (f : AluForm) : Statement (.or f) := every _
theorem xor (f : AluForm) : Statement (.xor f) := every _
theorem test (f : TestForm) : Statement (.test f) := every _
theorem not (f : UnForm) : Statement (.not f) := every _
theorem rol (f : ShiftForm) : Statement (.rol f) := every _
theorem ror (f : ShiftForm) : Statement (.ror f) := every _
theorem rcl (f : ShiftForm) : Statement (.rcl f) := every _
theorem rcr (f : ShiftForm) : Statement (.rcr f) := every _
theorem shl (f : ShiftForm) : Statement (.shl f) := every _
theorem shr (f : ShiftForm) : Statement (.shr f) := every _
theorem sar (f : ShiftForm) : Statement (.sar f) := every _
theorem mov (f : MovForm) : Statement (.mov f) := every _
theorem xchg (f : XchgForm) : Statement (.xchg f) := every _
theorem nop : Statement .nop := every _
theorem lea (g : Reg16) (m : MemOp) : Statement (.lea g m) := every _
theorem lds (g : Reg16) (m : MemOp) : Statement (.lds g m) := every _
theorem les (g : Reg16) (m : MemOp) : Statement (.les g m) := every _
theorem xlat : Statement .xlat := every _
theorem lahf : Statement .lahf := every _
theorem sahf : Statement .sahf := every _
theorem push (f : StackForm) : Statement (.push f) := every _
theorem pop (f : StackForm) : Statement (.pop f) := every _
theorem pushf : Statement .pushf := every _
theorem popf : Statement .popf := every _
theorem movsb : Statement .movsb := every _
theorem movsw : Statement .movsw := every _
theorem cmpsb : Statement .cmpsb := every _
theorem cmpsw : Statement .cmpsw := every _
theorem scasb : Statement .scasb := every _
theorem scasw : Statement .scasw := every _
theorem lodsb : Statement .lodsb := every _
theorem lodsw : Statement .lodsw := every _
theorem stosb : Statement .stosb := every _
theorem stosw : Statement .stosw := every _
theorem jmp (f : JmpForm) : Statement (.jmp f) := every _
theorem jmpf (f : FarForm) : Statement (.jmpf f) := every _
theorem jo (d : Byte) : Statement (.jo d) := every _
theorem jno (d : Byte) : Statement (.jno d) := every _
theorem jb (d : Byte) : Statement (.jb d) := every _
theorem jnb (d : Byte) : Statement (.jnb d) := every _
theorem jz (d : Byte) : Statement (.jz d) := every _
theorem jnz (d : Byte) : Statement (.jnz d) := every _
theorem jbe (d : Byte) : Statement (.jbe d) := every _
theorem ja (d : Byte) : Statement (.ja d) := every _
theorem js (d : Byte) : Statement (.js d) := every _
theorem jns (d : Byte) : Statement (.jns d) := every _
theorem jp (d : Byte) : Statement (.jp d) := every _
theorem jnp (d : Byte) : Statement (.jnp d) := every _
theorem jl (d : Byte) : Statement (.jl d) := every _
theorem jnl (d : Byte) : Statement (.jnl d) := every _
theorem jle (d : Byte) : Statement (.jle d) := every _
theorem jg (d : Byte) : Statement (.jg d) := every _
theorem jcxz (d : Byte) : Statement (.jcxz d) := every _
theorem loop (d : Byte) : Statement (.loop d) := every _
theorem loopz (d : Byte) : Statement (.loopz d) := every _
theorem loopnz (d : Byte) : Statement (.loopnz d) := every _
theorem call (f : CallForm) : Statement (.call f) := every _
theorem callf (f : FarForm) : Statement (.callf f) := every _
theorem ret (f : RetForm) : Statement (.ret f) := every _
theorem retf (f : RetForm) : Statement (.retf f) := every _
theorem int (n : Byte) : Statement (.int n) := every _
theorem int3 : Statement .int3 := every _
theorem into : Statement .into := every _
theorem iret : Statement .iret := every _
theorem inp (f : PortForm) : Statement (.inp f) := every _
theorem out (f : PortForm) : Statement (.out f) := every _
theorem clc : Statement .clc := every _
theorem stc : Statement .stc := every _
theorem cmc : Statement .cmc := every _
theorem cld : Statement .cld := every _
theorem std : Statement .std := every _
theorem cli : Statement .cli := every _
theorem sti : Statement .sti := every _
theorem hlt : Statement .hlt := every _
theorem wait : Statement .wait := every _
theorem esc (n : BitVec 3) (reg : BitVec 3) (e : Rm (BitVec 3)) : Statement (.esc n reg e) := every _

end Sys2Proof.Laws.Size
end

