-- ==== Sys2Proof/Tests/Slice0.lean ====
section
/-! SUPPORT. The model's own tests. Expected results are the spec's: the encodings of 30_encoding.md and the
opcode map for the words, the vectors of 95_test_vectors.md (named by id) for the steps; a step test without
an id is worked out by hand from the rule it names. Then, for every statement with hypotheses, a state and
operands that meet them. -/

namespace Sys2Proof.Tests

open Sys2Proof Sys2Proof.Machine

/-! ### Ill-formed terms -/

theorem test_wf_no_indirect_bp : Instr.wf Params.default (.add (.ebgb (.mem (.indirect .bp)) .al)) = false := by
  decide
theorem test_wf_no_xchg_ax_ax : Instr.wf Params.default (.xchg (.axr16 .ax)) = false := by decide
theorem test_wf_no_pop_cs : Instr.wf Params.default (.pop (.sreg .cs)) = false := by decide
theorem test_wf_no_mov_to_cs : Instr.wf Params.default (.mov (.swew .cs (.reg .ax))) = false := by decide
theorem test_wf_no_lock : Instr.wf Params.default (.lock .nop) = false := by decide
theorem test_wf_lock_when_ignored :
    Instr.wf { Params.default with lockPrefix := .ignore } (.lock .nop) = true := by decide
theorem test_wf_no_rejected : Instr.wf Params.default (.invalid .invalidOpcode [0x0F#8]) = false := by decide
theorem test_wf_under_prefix :
    Instr.wf Params.default (.es (.rep (.inc (.ew (.mem (.indirect .bp)))))) = false := by decide
theorem test_encodable_length :
    Instr.encodable { Params.default with maxInsnLen := 2 } (.es (.cs .nop)) = false := by decide

/-! ### Words written out from the encoding tables -/

/-- The stream of these bytes decodes to this instruction. -/
def reads (bs : List Nat) (i : Instr) : Bool :=
  decide (decode Params.default (streamOf (bs.map (BitVec.ofNat 8))) = .ok i)

/-- The stream of these bytes is rejected for this reason after reading `n` bytes. -/
def rejects (bs : List Nat) (why : DecodeReason) (n : Nat) : Bool :=
  decide (decode Params.default (streamOf (bs.map (BitVec.ofNat 8))) = .error why n)

theorem test_decode_add_or_adc_sbb :
    (reads [0x00, 0x1D] (.add (.ebgb (.mem (.indirect .di)) .bl)) &&
    reads [0x05, 0xFF, 0x7F] (.add (.axiw 0x7FFF#16)) &&
    reads [0x80, 0xC3, 0x12] (.add (.ebib (.reg .bl) 0x12#8)) &&
    reads [0x82, 0xC3, 0x12] (.add (.ebibAlias (.reg .bl) 0x12#8)) &&
    reads [0x83, 0x46, 0xFE, 0xF0] (.add (.ewibs (.mem (.disp8 .bp 0xFE#8)) 0xF0#8)) &&
    reads [0x09, 0xD8] (.or (.ewgw (.reg .ax) .bx)) &&
    reads [0x12, 0x40, 0x04] (.adc (.gbeb .al (.mem (.disp8 .bxsi 0x04#8)))) &&
    reads [0x1B, 0x8F, 0x34, 0x12] (.sbb (.gwew .cx (.mem (.disp16 .bx 0x1234#16))))) = true := by
  decide

theorem test_decode_and_sub_xor_cmp :
    (reads [0x24, 0x0F] (.and (.alib 0x0F#8)) &&
    reads [0x81, 0x2E, 0x00, 0x02, 0x34, 0x12] (.sub (.ewiw (.mem (.direct 0x0200#16)) 0x1234#16)) &&
    reads [0x31, 0xC0] (.xor (.ewgw (.reg .ax) .ax)) &&
    reads [0x3C, 0x05] (.cmp (.alib 0x05#8)) &&
    reads [0x38, 0xFC] (.cmp (.ebgb (.reg .ah) .bh))) = true := by
  decide

theorem test_decode_inc_dec_neg_not :
    (reads [0x47] (.inc (.r16 .di)) &&
    reads [0xFE, 0x06, 0x00, 0x02] (.inc (.eb (.mem (.direct 0x0200#16)))) &&
    reads [0x49] (.dec (.r16 .cx)) &&
    reads [0xFF, 0x0A] (.dec (.ew (.mem (.indirect .bpsi)))) &&
    reads [0xF6, 0xD8] (.neg (.eb (.reg .al))) &&
    reads [0xF7, 0xD7] (.not (.ew (.reg .di)))) = true := by
  decide

theorem test_decode_mul_div :
    (reads [0xF7, 0xE1] (.mul (.ew (.reg .cx))) &&
    reads [0xF6, 0xEB] (.imul (.eb (.reg .bl))) &&
    reads [0xF6, 0x37] (.div (.eb (.mem (.indirect .bx)))) &&
    reads [0xF7, 0xFE] (.idiv (.ew (.reg .si)))) = true := by
  decide

theorem test_decode_adjust_and_extend :
    (reads [0x27] .daa &&
    reads [0x2F] .das &&
    reads [0x37] .aaa &&
    reads [0x3F] .aas &&
    reads [0xD4, 0x0A] (.aam 0x0A#8) &&
    reads [0xD5, 0x0A] (.aad 0x0A#8) &&
    reads [0x98] .cbw &&
    reads [0x99] .cwd) = true := by
  decide

theorem test_decode_test_and_shifts :
    (reads [0xA9, 0x34, 0x12] (.test (.axiw 0x1234#16)) &&
    reads [0xF6, 0x06, 0x00, 0x02, 0x80] (.test (.ebib (.mem (.direct 0x0200#16)) 0x80#8)) &&
    reads [0x85, 0xD9] (.test (.ewgw (.reg .cx) .bx)) &&
    reads [0xD0, 0xC0] (.rol (.eb1 (.reg .al))) &&
    reads [0xD1, 0xC9] (.ror (.ew1 (.reg .cx))) &&
    reads [0xD2, 0xD7] (.rcl (.ebcl (.reg .bh))) &&
    reads [0xD3, 0x1D] (.rcr (.ewcl (.mem (.indirect .di)))) &&
    reads [0xD1, 0xE2] (.shl (.ew1 (.reg .dx))) &&
    reads [0xD3, 0xEC] (.shr (.ewcl (.reg .sp))) &&
    reads [0xD0, 0xF8] (.sar (.eb1 (.reg .al)))) = true := by
  decide

theorem test_decode_mov :
    (reads [0x88, 0xD8] (.mov (.ebgb (.reg .al) .bl)) &&
    reads [0x8B, 0x46, 0xFE] (.mov (.gwew .ax (.mem (.disp8 .bp 0xFE#8)))) &&
    reads [0x8C, 0x1C] (.mov (.ewsw (.mem (.indirect .si)) .ds)) &&
    reads [0x8E, 0xD0] (.mov (.swew .ss (.reg .ax))) &&
    reads [0xA0, 0x34, 0x12] (.mov (.alob 0x1234#16)) &&
    reads [0xA3, 0x34, 0x12] (.mov (.owax 0x1234#16)) &&
    reads [0xB4, 0x7F] (.mov (.r8ib .ah 0x7F#8)) &&
    reads [0xBC, 0x00, 0x01] (.mov (.r16iw .sp 0x0100#16)) &&
    reads [0xC6, 0x06, 0x00, 0x02, 0x55] (.mov (.ebib (.mem (.direct 0x0200#16)) 0x55#8)) &&
    reads [0xC7, 0x47, 0x02, 0x34, 0x12] (.mov (.ewiw (.mem (.disp8 .bx 0x02#8)) 0x1234#16))) = true := by
  decide

theorem test_decode_exchange_and_load :
    (reads [0x86, 0xC4] (.xchg (.ebgb (.reg .ah) .al)) &&
    reads [0x93] (.xchg (.axr16 .bx)) &&
    reads [0x90] .nop &&
    reads [0x8D, 0x80, 0x34, 0x12] (.lea .ax (.disp16 .bxsi 0x1234#16)) &&
    reads [0xC5, 0x36, 0x00, 0x01] (.lds .si (.direct 0x0100#16)) &&
    reads [0xC4, 0x3F] (.les .di (.indirect .bx)) &&
    reads [0xD7] .xlat &&
    reads [0x9F] .lahf &&
    reads [0x9E] .sahf) = true := by
  decide

theorem test_decode_stack :
    (reads [0x50] (.push (.r16 .ax)) &&
    reads [0x0E] (.push (.sreg .cs)) &&
    reads [0xFF, 0x36, 0x00, 0x02] (.push (.ew (.mem (.direct 0x0200#16)))) &&
    reads [0x5C] (.pop (.r16 .sp)) &&
    reads [0x1F] (.pop (.sreg .ds)) &&
    reads [0x8F, 0x07] (.pop (.ew (.mem (.indirect .bx)))) &&
    reads [0x9C] .pushf &&
    reads [0x9D] .popf) = true := by
  decide

theorem test_decode_strings :
    (reads [0xA4] .movsb &&
    reads [0xA5] .movsw &&
    reads [0xA6] .cmpsb &&
    reads [0xA7] .cmpsw &&
    reads [0xAA] .stosb &&
    reads [0xAB] .stosw &&
    reads [0xAC] .lodsb &&
    reads [0xAD] .lodsw &&
    reads [0xAE] .scasb &&
    reads [0xAF] .scasw) = true := by
  decide

theorem test_decode_jumps :
    (reads [0xEB, 0xFE] (.jmp (.short 0xFE#8)) &&
    reads [0xE9, 0xFD, 0xFF] (.jmp (.near 0xFFFD#16)) &&
    reads [0xFF, 0xE3] (.jmp (.ind (.reg .bx))) &&
    reads [0xEA, 0x78, 0x56, 0x34, 0x12] (.jmpf (.ptr 0x1234#16 0x5678#16)) &&
    reads [0xFF, 0x2F] (.jmpf (.ind (.indirect .bx))) &&
    reads [0xE3, 0x05] (.jcxz 0x05#8) &&
    reads [0xE2, 0xFE] (.loop 0xFE#8) &&
    reads [0xE1, 0xFE] (.loopz 0xFE#8) &&
    reads [0xE0, 0xFE] (.loopnz 0xFE#8)) = true := by
  decide

theorem test_decode_conditional_jumps :
    (reads [0x70, 0xFE] (.jo 0xFE#8) &&
    reads [0x71, 0xFE] (.jno 0xFE#8) &&
    reads [0x72, 0xFE] (.jb 0xFE#8) &&
    reads [0x73, 0xFE] (.jnb 0xFE#8) &&
    reads [0x74, 0xFE] (.jz 0xFE#8) &&
    reads [0x75, 0xFE] (.jnz 0xFE#8) &&
    reads [0x76, 0xFE] (.jbe 0xFE#8) &&
    reads [0x77, 0xFE] (.ja 0xFE#8) &&
    reads [0x78, 0xFE] (.js 0xFE#8) &&
    reads [0x79, 0xFE] (.jns 0xFE#8) &&
    reads [0x7A, 0xFE] (.jp 0xFE#8) &&
    reads [0x7B, 0xFE] (.jnp 0xFE#8) &&
    reads [0x7C, 0xFE] (.jl 0xFE#8) &&
    reads [0x7D, 0xFE] (.jnl 0xFE#8) &&
    reads [0x7E, 0xFE] (.jle 0xFE#8) &&
    reads [0x7F, 0xFE] (.jg 0xFE#8)) = true := by
  decide

theorem test_decode_calls_and_interrupts :
    (reads [0xE8, 0x10, 0x00] (.call (.near 0x0010#16)) &&
    reads [0xFF, 0xD3] (.call (.ind (.reg .bx))) &&
    reads [0x9A, 0x78, 0x56, 0x34, 0x12] (.callf (.ptr 0x1234#16 0x5678#16)) &&
    reads [0xFF, 0x1F] (.callf (.ind (.indirect .bx))) &&
    reads [0xC3] (.ret .plain) &&
    reads [0xC2, 0x04, 0x00] (.ret (.imm 0x0004#16)) &&
    reads [0xCB] (.retf .plain) &&
    reads [0xCA, 0x02, 0x00] (.retf (.imm 0x0002#16)) &&
    reads [0xCD, 0x21] (.int 0x21#8) &&
    reads [0xCD, 0x03] (.int 0x03#8) &&
    reads [0xCC] .int3 &&
    reads [0xCE] .into &&
    reads [0xCF] .iret) = true := by
  decide

theorem test_decode_ports_and_misc :
    (reads [0xE4, 0x80] (.inp (.alib 0x80#8)) &&
    reads [0xED] (.inp .axdx) &&
    reads [0xE7, 0x80] (.out (.axib 0x80#8)) &&
    reads [0xEE] (.out .aldx) &&
    reads [0xF8] .clc &&
    reads [0xF9] .stc &&
    reads [0xF5] .cmc &&
    reads [0xFC] .cld &&
    reads [0xFD] .std &&
    reads [0xFA] .cli &&
    reads [0xFB] .sti &&
    reads [0xF4] .hlt &&
    reads [0x9B] .wait &&
    reads [0xD9, 0xC0] (.esc 1#3 0#3 (.reg 0#3)) &&
    reads [0xDD, 0x06, 0x34, 0x12] (.esc 5#3 0#3 (.mem (.direct 0x1234#16)))) = true := by
  decide

theorem test_decode_prefixes :
    (reads [0x26, 0xA4] (.es .movsb) &&
    reads [0x2E, 0xD7] (.cs .xlat) &&
    reads [0x36, 0x8B, 0x07] (.ss (.mov (.gwew .ax (.mem (.indirect .bx))))) &&
    reads [0x3E, 0x8B, 0x46, 0xFE] (.ds (.mov (.gwew .ax (.mem (.disp8 .bp 0xFE#8))))) &&
    reads [0xF3, 0xAA] (.rep .stosb) &&
    reads [0xF2, 0xAE] (.repne .scasb) &&
    reads [0xF3, 0x26, 0xA5] (.rep (.es .movsw))) = true := by
  decide

/-- R307: with LOCK_PREFIX = ignore 0xF0 is a prefix. -/
theorem test_decode_lock :
    decode { Params.default with lockPrefix := .ignore } (streamOf [0xF0#8, 0x90#8]) = .ok (.lock .nop) := by
  decide

/-- V42-21, V43-13, V43-28, V60-1 to V60-6, V60-8 to V60-15, V60-17. -/
theorem test_decode_rejected :
    (rejects [0xD0, 0xF0] .invalidOpcode 2 && rejects [0x8E, 0xC8] .badModrm 2 && rejects [0x8D, 0xC0] .badModrm 2 &&
    rejects [0x0F] .invalidOpcode 1 && rejects [0x60] .invalidOpcode 1 && rejects [0xC0, 0xE0, 0x01] .invalidOpcode 1 &&
    rejects [0xD6] .invalidOpcode 1 && rejects [0xF1] .invalidOpcode 1 && rejects [0xF0, 0x90] .invalidOpcode 1 &&
    rejects [0xFE, 0xD0] .invalidOpcode 2 && rejects [0xFF, 0xF8] .invalidOpcode 2 &&
    rejects [0x8F, 0xC8] .invalidOpcode 2 && rejects [0xF6, 0xC8, 0x01] .invalidOpcode 2 &&
    rejects [0x8C, 0xE0] .badModrm 2 && rejects [0xC4, 0xC0] .badModrm 2 && rejects [0xFF, 0xD8] .badModrm 2 &&
    rejects (List.replicate 16 0x26 ++ [0x90]) .tooLong 16 && rejects [0x66, 0x90] .invalidOpcode 1) = true := by
  decide

/-- R309: fifteen prefixes and NOP are sixteen bytes, the default limit. -/
theorem test_decode_longest :
    decode Params.default (streamOf (List.replicate 15 0x26#8 ++ [0x90#8])) =
      .ok (Prefix.wrapAll (List.replicate 15 .es) .nop) := by
  decide

/-! ### The table's words -/

/-- A one-byte row (DAA, 8 bits) and a row of one window: the opcode byte is bits 15..8 (R380). -/
theorem test_table_words :
    decodeTableWord 8 0x27 = some .daa ∧ decodeTableWord 16 0x2700 = some .daa ∧
    decodeTableWord 16 0x00C3 = some (.add (.ebgb (.reg .bl) .al)) ∧
    decodeTableWord 24 0x2134CD = decodeTableWord 32 0x2134CD := by
  decide

/-- A placed table word is what the next step runs: DAA. -/
theorem test_withFetchWord : (State.reset.withFetchWord 16 0x2700).current = .daa := by decide

/-! ### One step -/

/-- The state after one step from `s` with these bytes at CS:ip. -/
def after (s : State) (bs : List Nat) : State :=
  match step (s.loadImage (flat s.cs s.ip) (bs.map (BitVec.ofNat 8))) with
  | .next t => t
  | .fault _ => s
  | .refused _ => s

/-- The named flags hold these values. -/
def flagsAre (t : State) (fs : List (FlagName × Bool)) : Bool := fs.all fun f => t.flags.get f.1 == f.2

/-- V40-2. -/
theorem test_add_first :
    let t := after { State.reset with ax := 0x0001#16, bx := 0x0100#16, si := 0x0010#16, mem := [(0x00114,
      0x7F#8)] } [0x00, 0x40, 0x04]
    t.ip = 0x0003#16 ∧ flagsAre t [(.CF, false), (.PF, false), (.AF, true), (.ZF, false), (.SF, true), (.OF,
      true)] = true ∧ t.memByte 0x00114#20 = 0x80#8 := by
  decide

/-- V40-1. -/
theorem test_add_second :
    let t := after { State.reset with bx := 0x0005#16, di := 0x0100#16, mem := [(0x00100, 0xFD#8)] } [0x00,
      0x1D]
    t.ip = 0x0002#16 ∧ flagsAre t [(.CF, true), (.PF, false), (.AF, true), (.ZF, false), (.SF, false), (.OF,
      false)] = true ∧ t.memByte 0x00100#20 = 0x02#8 := by
  decide

/-- V41-7. -/
theorem test_adc_first :
    let t := after { State.reset with flags := { Flags.clear with CF := true } } [0x15, 0xFF, 0x7F]
    t.ax = 0x8000#16 ∧ t.ip = 0x0003#16 ∧ flagsAre t [(.CF, false), (.PF, true), (.AF, true), (.ZF, false),
      (.SF, true), (.OF, true)] = true := by
  decide

/-- V41-6. -/
theorem test_adc_second :
    let t := after { State.reset with ax := 0x00FF#16, flags := { Flags.clear with CF := true } } [0x14, 0x00]
    t.ax = 0x0000#16 ∧ t.ip = 0x0002#16 ∧ flagsAre t [(.CF, true), (.PF, true), (.AF, true), (.ZF, true), (.SF,
      false), (.OF, false)] = true := by
  decide

/-- V41-9. -/
theorem test_sub_first :
    let t := after { State.reset with ax := 0x8000#16 } [0x2D, 0x01, 0x00]
    t.ax = 0x7FFF#16 ∧ t.ip = 0x0003#16 ∧ flagsAre t [(.CF, false), (.PF, true), (.AF, true), (.ZF, false),
      (.SF, false), (.OF, true)] = true := by
  decide

/-- V41-8. -/
theorem test_sub_second :
    let t := after State.reset [0x2C, 0x01]
    t.ax = 0x00FF#16 ∧ t.ip = 0x0002#16 ∧ flagsAre t [(.CF, true), (.PF, true), (.AF, true), (.ZF, false), (.SF,
      true), (.OF, false)] = true := by
  decide

/-- V41-11. -/
theorem test_sbb_first :
    let t := after { State.reset with flags := { Flags.clear with CF := true } } [0x1C, 0xFF]
    t.ip = 0x0002#16 ∧ flagsAre t [(.CF, true), (.PF, true), (.AF, true), (.ZF, true), (.SF, false), (.OF,
      false)] = true := by
  decide

/-- V41-10. -/
theorem test_sbb_second :
    let t := after { State.reset with ax := 0x0002#16, flags := { Flags.clear with CF := true } } [0x1C, 0x01]
    t.ax = 0x0000#16 ∧ t.ip = 0x0002#16 ∧ flagsAre t [(.CF, false), (.PF, true), (.AF, false), (.ZF, true),
      (.SF, false), (.OF, false)] = true := by
  decide

/-- V41-13. -/
theorem test_cmp_first :
    let t := after { State.reset with ax := 0x8000#16, bx := 0x0001#16 } [0x39, 0xD8]
    t.ip = 0x0002#16 ∧ flagsAre t [(.CF, false), (.PF, true), (.AF, true), (.ZF, false), (.SF, false), (.OF,
      true)] = true := by
  decide

/-- V41-12. -/
theorem test_cmp_second :
    let t := after { State.reset with ax := 0x0003#16 } [0x3C, 0x05]
    t.ip = 0x0002#16 ∧ flagsAre t [(.CF, true), (.PF, false), (.AF, true), (.ZF, false), (.SF, true), (.OF,
      false)] = true := by
  decide

/-- V41-14. -/
theorem test_inc_first :
    let t := after { State.reset with ax := 0xFFFF#16, flags := { Flags.clear with CF := true } } [0x40]
    t.ax = 0x0000#16 ∧ t.ip = 0x0001#16 ∧ flagsAre t [(.CF, true), (.PF, true), (.AF, true), (.ZF, true), (.SF,
      false), (.OF, false)] = true := by
  decide

/-- V41-15. -/
theorem test_inc_second :
    let t := after { State.reset with ax := 0x007F#16 } [0xFE, 0xC0]
    t.ax = 0x0080#16 ∧ t.ip = 0x0002#16 ∧ flagsAre t [(.CF, false), (.PF, false), (.AF, true), (.ZF, false),
      (.SF, true), (.OF, true)] = true := by
  decide

/-- V41-18. -/
theorem test_dec_first :
    let t := after { State.reset with mem := [] } [0xFE, 0x0E, 0x00, 0x02]
    t.ip = 0x0004#16 ∧ flagsAre t [(.CF, false), (.PF, true), (.AF, true), (.ZF, false), (.SF, true), (.OF,
      false)] = true ∧ t.memByte 0x00200#20 = 0xFF#8 := by
  decide

/-- V41-17. -/
theorem test_dec_second :
    let t := after { State.reset with ax := 0x8000#16 } [0x48]
    t.ax = 0x7FFF#16 ∧ t.ip = 0x0001#16 ∧ flagsAre t [(.CF, false), (.PF, true), (.AF, true), (.ZF, false),
      (.SF, false), (.OF, true)] = true := by
  decide

/-- V41-19. -/
theorem test_neg_first :
    let t := after { State.reset with ax := 0x0080#16 } [0xF6, 0xD8]
    t.ip = 0x0002#16 ∧ flagsAre t [(.CF, true), (.PF, false), (.AF, false), (.ZF, false), (.SF, true), (.OF,
      true)] = true := by
  decide

/-- V41-20. -/
theorem test_neg_second :
    let t := after State.reset [0xF7, 0xD8]
    t.ip = 0x0002#16 ∧ flagsAre t [(.CF, false), (.PF, true), (.AF, false), (.ZF, true), (.SF, false), (.OF,
      false)] = true := by
  decide

/-- V41-22. -/
theorem test_mul_first :
    let t := after { State.reset with ax := 0x0080#16, bx := 0x0002#16 } [0xF6, 0xE3]
    t.ax = 0x0100#16 ∧ t.ip = 0x0002#16 ∧ flagsAre t [(.CF, true), (.OF, true)] = true := by
  decide

/-- V41-24. -/
theorem test_mul_second :
    let t := after { State.reset with ax := 0x1234#16, cx := 0x0100#16 } [0xF7, 0xE1]
    t.ax = 0x3400#16 ∧ t.dx = 0x0012#16 ∧ t.ip = 0x0002#16 ∧ flagsAre t [(.CF, true), (.OF, true)] = true := by
  decide

/-- V41-25. -/
theorem test_imul_first :
    let t := after { State.reset with ax := 0x00FF#16, bx := 0x0002#16 } [0xF6, 0xEB]
    t.ax = 0xFFFE#16 ∧ t.ip = 0x0002#16 := by
  decide

/-- V41-26. -/
theorem test_imul_second :
    let t := after { State.reset with ax := 0x0040#16, bx := 0x0002#16 } [0xF6, 0xEB]
    t.ax = 0x0080#16 ∧ t.ip = 0x0002#16 ∧ flagsAre t [(.CF, true), (.OF, true)] = true := by
  decide

/-- V41-28. -/
theorem test_div_first :
    let t := after { State.reset with ax := 0x0107#16, bx := 0x0010#16 } [0xF6, 0xF3]
    t.ax = 0x0710#16 ∧ t.ip = 0x0002#16 := by
  decide

/-- V60-19. -/
theorem test_div_second :
    let t := after { State.reset with ip := 0x0100#16, ax := 0x1234#16, sp := 0x0100#16, params := {
      State.reset.params with divErrorMode := .vector }, mem := [(0x00001, 0x01#8), (0x00003, 0x20#8)] } [0xF7,
      0xF3]
    t.sp = 0x00FA#16 ∧ t.cs = 0x2000#16 ∧ t.ip = 0x0100#16 ∧ t.memByte 0x000FA#20 = 0x02#8 ∧ t.memByte
      0x000FB#20 = 0x01#8 ∧ t.memByte 0x000FC#20 = 0x00#8 ∧ t.memByte 0x000FD#20 = 0x00#8 ∧ t.memByte 0x000FE#20
      = 0x2A#8 ∧ t.memByte 0x000FF#20 = 0xF0#8 := by
  decide

/-- V41-33. -/
theorem test_idiv_first :
    let t := after { State.reset with ax := 0xFFF9#16, bx := 0x0002#16 } [0xF6, 0xFB]
    t.ax = 0xFFFD#16 ∧ t.ip = 0x0002#16 := by
  decide

/-- V41-34. -/
theorem test_idiv_second :
    let t := after { State.reset with ax := 0xFF00#16, bx := 0x0002#16 } [0xF6, 0xFB]
    t.ip = 0x0002#16 ∧ t.status = .divideError .quotientOverflow .idiv 0x00000#20 := by
  decide

/-- V41-37. -/
theorem test_daa_first :
    let t := after { State.reset with ax := 0x000F#16 } [0x27]
    t.ax = 0x0015#16 ∧ t.ip = 0x0001#16 ∧ flagsAre t [(.CF, false), (.PF, false), (.AF, true), (.ZF, false),
      (.SF, false)] = true := by
  decide

/-- V41-38. -/
theorem test_daa_second :
    let t := after { State.reset with ax := 0x009A#16 } [0x27]
    t.ax = 0x0000#16 ∧ t.ip = 0x0001#16 ∧ flagsAre t [(.CF, true), (.PF, true), (.AF, true), (.ZF, true), (.SF,
      false)] = true := by
  decide

/-- V41-39. -/
theorem test_das_first :
    let t := after { State.reset with ax := 0x00FF#16 } [0x2F]
    t.ax = 0x0099#16 ∧ t.ip = 0x0001#16 ∧ flagsAre t [(.CF, true), (.PF, true), (.AF, true), (.ZF, false), (.SF,
      true)] = true := by
  decide

/-- V41-40. -/
theorem test_aaa_first :
    let t := after { State.reset with ax := 0x000B#16 } [0x37]
    t.ax = 0x0101#16 ∧ t.ip = 0x0001#16 ∧ flagsAre t [(.CF, true), (.AF, true)] = true := by
  decide

/-- V41-41. -/
theorem test_aas_first :
    let t := after { State.reset with ax := 0x020F#16 } [0x3F]
    t.ax = 0x0109#16 ∧ t.ip = 0x0001#16 ∧ flagsAre t [(.CF, true), (.AF, true)] = true := by
  decide

/-- V41-42. -/
theorem test_aam_first :
    let t := after { State.reset with ax := 0x003F#16 } [0xD4, 0x0A]
    t.ax = 0x0603#16 ∧ t.ip = 0x0002#16 ∧ flagsAre t [(.PF, true), (.ZF, false), (.SF, false)] = true := by
  decide

/-- V41-43. -/
theorem test_aam_second :
    let t := after { State.reset with ax := 0x003F#16 } [0xD4, 0x00]
    t.ip = 0x0002#16 ∧ t.status = .divideError .divideByZero .aam 0x00000#20 := by
  decide

/-- V41-44. -/
theorem test_aad_first :
    let t := after { State.reset with ax := 0x0305#16 } [0xD5, 0x0A]
    t.ax = 0x0023#16 ∧ t.ip = 0x0002#16 := by
  decide

/-- V41-45. -/
theorem test_cbw_first :
    let t := after { State.reset with ax := 0x1280#16 } [0x98]
    t.ax = 0xFF80#16 ∧ t.ip = 0x0001#16 := by
  decide

/-- V41-46. -/
theorem test_cwd_first :
    let t := after { State.reset with ax := 0x8000#16, dx := 0x1234#16 } [0x99]
    t.dx = 0xFFFF#16 ∧ t.ip = 0x0001#16 := by
  decide

/-- V42-1. -/
theorem test_and_first :
    let t := after { State.reset with ax := 0x00F3#16, flags := { Flags.clear with CF := true, OF := true } }
      [0x24, 0x0F]
    t.ax = 0x0003#16 ∧ t.ip = 0x0002#16 ∧ flagsAre t [(.CF, false), (.PF, true), (.ZF, false), (.SF, false),
      (.OF, false)] = true := by
  decide

/-- V42-23. -/
theorem test_and_second :
    let t := after { State.reset with ax := 0x00F3#16, params := { State.reset.params with execProfile :=
      .source } } [0x24, 0x0F]
    t.ip = 0x0002#16 ∧ t.status = .unhandled .and 0x00000#20 := by
  decide

/-- V42-2. -/
theorem test_or_first :
    let t := after { State.reset with ax := 0x0001#16 } [0x0D, 0x00, 0x80]
    t.ax = 0x8001#16 ∧ t.ip = 0x0003#16 ∧ flagsAre t [(.CF, false), (.PF, false), (.ZF, false), (.SF, true),
      (.OF, false)] = true := by
  decide

/-- V40-17. -/
theorem test_xor_first :
    let t := after { State.reset with ax := 0x12FF#16, flags := { Flags.clear with CF := true, OF := true } }
      [0x30, 0xC0]
    t.ax = 0x1200#16 ∧ t.ip = 0x0002#16 ∧ flagsAre t [(.CF, false), (.PF, true), (.ZF, true), (.SF, false),
      (.OF, false)] = true := by
  decide

/-- V42-4. -/
theorem test_xor_second :
    let t := after { State.reset with ax := 0x0055#16, bx := 0x00AA#16 } [0x32, 0xC3]
    t.ax = 0x00FF#16 ∧ t.ip = 0x0002#16 ∧ flagsAre t [(.CF, false), (.PF, true), (.ZF, false), (.SF, true),
      (.OF, false)] = true := by
  decide

/-- V42-5. -/
theorem test_test_first :
    let t := after { State.reset with ax := 0x0080#16 } [0xA8, 0x80]
    t.ip = 0x0002#16 ∧ flagsAre t [(.CF, false), (.PF, false), (.ZF, false), (.SF, true), (.OF, false)] = true := by
  decide

/-- V42-7. -/
theorem test_not_first :
    let t := after { State.reset with ax := 0x000F#16, flags := { Flags.clear with CF := true, ZF := true } }
      [0xF6, 0xD0]
    t.ax = 0x00F0#16 ∧ t.ip = 0x0002#16 ∧ flagsAre t [(.CF, true), (.ZF, true)] = true := by
  decide

/-- V42-8. -/
theorem test_rol_first :
    let t := after { State.reset with ax := 0x0081#16 } [0xD0, 0xC0]
    t.ax = 0x0003#16 ∧ t.ip = 0x0002#16 ∧ flagsAre t [(.CF, true), (.PF, false), (.AF, false), (.ZF, false),
      (.SF, false), (.OF, true)] = true := by
  decide

/-- V42-9. -/
theorem test_rol_second :
    let t := after { State.reset with ax := 0x8001#16, cx := 0x0011#16 } [0xD3, 0xC0]
    t.ax = 0x0003#16 ∧ t.ip = 0x0002#16 ∧ flagsAre t [(.CF, true), (.PF, false), (.AF, false), (.ZF, false),
      (.SF, false)] = true := by
  decide

/-- V42-10. -/
theorem test_ror_first :
    let t := after { State.reset with ax := 0x0001#16 } [0xD0, 0xC8]
    t.ax = 0x0080#16 ∧ t.ip = 0x0002#16 ∧ flagsAre t [(.CF, true), (.PF, false), (.AF, false), (.ZF, false),
      (.SF, false), (.OF, true)] = true := by
  decide

/-- V42-11. -/
theorem test_rcl_first :
    let t := after { State.reset with ax := 0x0080#16 } [0xD0, 0xD0]
    t.ax = 0x0000#16 ∧ t.ip = 0x0002#16 ∧ flagsAre t [(.CF, true), (.PF, false), (.AF, false), (.ZF, false),
      (.SF, false), (.OF, true)] = true := by
  decide

/-- V42-12. -/
theorem test_rcr_first :
    let t := after { State.reset with ax := 0x0001#16, flags := { Flags.clear with CF := true } } [0xD0, 0xD8]
    t.ax = 0x0080#16 ∧ t.ip = 0x0002#16 ∧ flagsAre t [(.CF, true), (.PF, false), (.AF, false), (.ZF, false),
      (.SF, false), (.OF, true)] = true := by
  decide

/-- V42-13. -/
theorem test_shl_first :
    let t := after { State.reset with ax := 0x4000#16 } [0xD1, 0xE0]
    t.ax = 0x8000#16 ∧ t.ip = 0x0002#16 ∧ flagsAre t [(.CF, false), (.PF, true), (.ZF, false), (.SF, true),
      (.OF, true)] = true := by
  decide

/-- V42-20. -/
theorem test_shl_second :
    let t := after { State.reset with ax := 0x1234#16, flags := { Flags.clear with CF := true, OF := true } }
      [0xD3, 0xE0]
    t.ip = 0x0002#16 ∧ flagsAre t [(.CF, true), (.OF, true)] = true := by
  decide

/-- V42-17. -/
theorem test_shr_first :
    let t := after { State.reset with ax := 0x0081#16 } [0xD0, 0xE8]
    t.ax = 0x0040#16 ∧ t.ip = 0x0002#16 ∧ flagsAre t [(.CF, true), (.PF, false), (.ZF, false), (.SF, false),
      (.OF, true)] = true := by
  decide

/-- V42-18. -/
theorem test_sar_first :
    let t := after { State.reset with ax := 0x0081#16 } [0xD0, 0xF8]
    t.ax = 0x00C0#16 ∧ t.ip = 0x0002#16 ∧ flagsAre t [(.CF, true), (.PF, true), (.ZF, false), (.SF, true), (.OF,
      false)] = true := by
  decide

/-- V42-19. -/
theorem test_sar_second :
    let t := after { State.reset with ax := 0x0080#16, cx := 0x0010#16 } [0xD2, 0xF8]
    t.ax = 0x00FF#16 ∧ t.ip = 0x0002#16 ∧ flagsAre t [(.CF, true), (.PF, true), (.ZF, false), (.SF, true)] =
      true := by
  decide

/-- V40-4. -/
theorem test_mov_first :
    let t := after { State.reset with bp := 0x0010#16, ss := 0x1000#16, ds := 0x2000#16, mem := [(0x1000E,
      0x34#8), (0x1000F, 0x12#8), (0x2000E, 0x78#8), (0x2000F, 0x56#8)] } [0x8B, 0x46, 0xFE]
    t.ax = 0x1234#16 ∧ t.ip = 0x0003#16 := by
  decide

/-- V40-9. -/
theorem test_mov_second :
    let t := after { State.reset with ip := 0x0100#16, mem := [(0x00000, 0x33#8), (0x0FFFF, 0x11#8), (0x10000,
      0x22#8)] } [0xA1, 0xFF, 0xFF]
    t.ax = 0x2211#16 ∧ t.ip = 0x0103#16 := by
  decide

/-- V43-24. -/
theorem test_xchg_first :
    let t := after { State.reset with ax := 0x1234#16 } [0x86, 0xC4]
    t.ax = 0x3412#16 ∧ t.ip = 0x0002#16 := by
  decide

/-- V43-25. -/
theorem test_xchg_second :
    let t := after { State.reset with ax := 0x1111#16, bx := 0x2222#16 } [0x93]
    t.ax = 0x2222#16 ∧ t.bx = 0x1111#16 ∧ t.ip = 0x0001#16 := by
  decide

/-- V43-26. -/
theorem test_nop_first :
    let t := after State.reset [0x90]
    t.ip = 0x0001#16 := by
  decide

/-- V43-27. -/
theorem test_lea_first :
    let t := after { State.reset with bx := 0x1000#16, si := 0x0020#16 } [0x8D, 0x40, 0x04]
    t.ax = 0x1024#16 ∧ t.ip = 0x0003#16 := by
  decide

/-- V43-29. -/
theorem test_lds_first :
    let t := after { State.reset with mem := [(0x00200, 0x34#8), (0x00201, 0x12#8), (0x00202, 0x78#8), (0x00203,
      0x56#8)] } [0xC5, 0x36, 0x00, 0x02]
    t.si = 0x1234#16 ∧ t.ds = 0x5678#16 ∧ t.ip = 0x0004#16 := by
  decide

/-- V43-30. -/
theorem test_les_first :
    let t := after { State.reset with mem := [(0x00200, 0x34#8), (0x00201, 0x12#8), (0x00202, 0x78#8), (0x00203,
      0x56#8)] } [0xC4, 0x3E, 0x00, 0x02]
    t.di = 0x1234#16 ∧ t.es = 0x5678#16 ∧ t.ip = 0x0004#16 := by
  decide

/-- V43-31. -/
theorem test_xlat_first :
    let t := after { State.reset with ax := 0x0003#16, bx := 0x0200#16, mem := [(0x00200, 0x10#8), (0x00201,
      0x11#8), (0x00202, 0x12#8), (0x00203, 0x13#8)] } [0xD7]
    t.ax = 0x0013#16 ∧ t.ip = 0x0001#16 := by
  decide

/-- V43-32. -/
theorem test_lahf_first :
    let t := after { State.reset with flags := { Flags.clear with CF := true, ZF := true, SF := true } } [0x9F]
    t.ax = 0xEB00#16 ∧ t.ip = 0x0001#16 ∧ flagsAre t [(.CF, true), (.ZF, true), (.SF, true)] = true := by
  decide

/-- V43-33. -/
theorem test_sahf_first :
    let t := after { State.reset with ax := 0xFF00#16 } [0x9E]
    t.ip = 0x0001#16 ∧ flagsAre t [(.CF, true), (.PF, true), (.AF, true), (.ZF, true), (.SF, true), (.OF,
      false)] = true := by
  decide

/-- V43-15. -/
theorem test_push_first :
    let t := after { State.reset with sp := 0x0100#16 } [0x54]
    t.sp = 0x00FE#16 ∧ t.ip = 0x0001#16 ∧ t.memByte 0x000FE#20 = 0xFE#8 ∧ t.memByte 0x000FF#20 = 0x00#8 := by
  decide

/-- V43-18. -/
theorem test_push_second :
    let t := after { State.reset with ax := 0xABCD#16 } [0x50]
    t.sp = 0xFFFE#16 ∧ t.ip = 0x0001#16 ∧ t.memByte 0x0FFFE#20 = 0xCD#8 ∧ t.memByte 0x0FFFF#20 = 0xAB#8 := by
  decide

/-- V43-17. -/
theorem test_pop_first :
    let t := after { State.reset with sp := 0x00FE#16, mem := [(0x000FE, 0x34#8), (0x000FF, 0x12#8)] } [0x5C]
    t.sp = 0x1234#16 ∧ t.ip = 0x0001#16 := by
  decide

/-- V43-22. -/
theorem test_pop_second :
    let t := after { State.reset with sp := 0x00FE#16, mem := [(0x000FE, 0x78#8), (0x000FF, 0x56#8)] } [0x8F,
      0x06, 0x00, 0x02]
    t.sp = 0x0100#16 ∧ t.ip = 0x0004#16 ∧ t.memByte 0x00200#20 = 0x78#8 ∧ t.memByte 0x00201#20 = 0x56#8 := by
  decide

/-- V43-34. -/
theorem test_pushf_first :
    let t := after { State.reset with sp := 0x0100#16, flags := { Flags.clear with CF := true, DF := true } }
      [0x9C]
    t.sp = 0x00FE#16 ∧ t.ip = 0x0001#16 ∧ flagsAre t [(.CF, true)] = true ∧ t.memByte 0x000FE#20 = 0x2B#8 ∧
      t.memByte 0x000FF#20 = 0xF4#8 := by
  decide

/-- V43-35. -/
theorem test_popf_first :
    let t := after { State.reset with sp := 0x00FE#16, mem := [(0x000FE, 0xFF#8), (0x000FF, 0xFF#8)] } [0x9D]
    t.sp = 0x0100#16 ∧ t.ip = 0x0001#16 ∧ flagsAre t [(.CF, true), (.PF, true), (.AF, true), (.ZF, true), (.SF,
      true), (.TF, true), (.IF, true), (.DF, true), (.OF, true)] = true := by
  decide

/-- V44-10. -/
theorem test_movsb_first :
    let t := after { State.reset with si := 0x0100#16, di := 0x0200#16, mem := [(0x00100, 0x5A#8)] } [0xA4]
    t.si = 0x0101#16 ∧ t.di = 0x0201#16 ∧ t.ip = 0x0001#16 ∧ t.memByte 0x00200#20 = 0x5A#8 := by
  decide

/-- V44-12. -/
theorem test_movsb_second :
    let t := after { State.reset with si := 0x0100#16, di := 0x0200#16, es := 0x1000#16, mem := [(0x10100,
      0x77#8)] } [0x26, 0xA4]
    t.si = 0x0101#16 ∧ t.di = 0x0201#16 ∧ t.ip = 0x0002#16 ∧ t.memByte 0x10200#20 = 0x77#8 := by
  decide

/-- V44-11. -/
theorem test_movsw_first :
    let t := after { State.reset with si := 0x0100#16, di := 0x0200#16, es := 0x1000#16, mem := [(0x00100,
      0x34#8), (0x00101, 0x12#8)] } [0xA5]
    t.si = 0x0102#16 ∧ t.di = 0x0202#16 ∧ t.ip = 0x0001#16 ∧ t.memByte 0x10200#20 = 0x34#8 ∧ t.memByte
      0x10201#20 = 0x12#8 := by
  decide

/-- V44-15. -/
theorem test_cmpsb_first :
    let t := after { State.reset with si := 0x0100#16, di := 0x0200#16, mem := [(0x00100, 0x05#8), (0x00200,
      0x07#8)] } [0xA6]
    t.si = 0x0101#16 ∧ t.di = 0x0201#16 ∧ t.ip = 0x0001#16 ∧ flagsAre t [(.CF, true), (.PF, false), (.AF, true),
      (.ZF, false), (.SF, true), (.OF, false)] = true := by
  decide

/-- V44-6. -/
theorem test_scasb_first :
    let t := after { State.reset with ax := 0x0041#16, di := 0x0010#16, mem := [(0x00010, 0x41#8)] } [0xAE]
    t.di = 0x0011#16 ∧ t.ip = 0x0001#16 ∧ flagsAre t [(.CF, false), (.PF, true), (.AF, false), (.ZF, true),
      (.SF, false), (.OF, false)] = true := by
  decide

/-- V44-9. -/
theorem test_scasw_first :
    let t := after { State.reset with ax := 0x1234#16, di := 0x0010#16, mem := [(0x00010, 0x34#8), (0x00011,
      0x12#8)] } [0xAF]
    t.di = 0x0012#16 ∧ t.ip = 0x0001#16 ∧ flagsAre t [(.CF, false), (.PF, true), (.AF, false), (.ZF, true),
      (.SF, false), (.OF, false)] = true := by
  decide

/-- V44-17. -/
theorem test_lodsb_first :
    let t := after { State.reset with si := 0x0100#16, mem := [(0x00100, 0x99#8)] } [0xAC]
    t.ax = 0x0099#16 ∧ t.si = 0x0101#16 ∧ t.ip = 0x0001#16 := by
  decide

/-- V44-18. -/
theorem test_lodsw_first :
    let t := after { State.reset with si := 0x0100#16, flags := { Flags.clear with DF := true }, mem :=
      [(0x00100, 0x34#8), (0x00101, 0x12#8)] } [0xAD]
    t.ax = 0x1234#16 ∧ t.si = 0x00FE#16 ∧ t.ip = 0x0001#16 := by
  decide

/-- V44-4. -/
theorem test_stosb_first :
    let t := after { State.reset with ax := 0x00AA#16, di := 0x0010#16, cx := 0x0003#16 } [0xF3, 0xAA]
    t.cx = 0x0002#16 ∧ t.di = 0x0011#16 ∧ t.ip = 0x0000#16 ∧ t.memByte 0x00010#20 = 0xAA#8 := by
  decide

/-- V44-5. -/
theorem test_stosb_second :
    let t := after { State.reset with ax := 0x00AA#16, di := 0x0010#16 } [0xF3, 0xAA]
    t.ip = 0x0002#16 := by
  decide

/-- V44-2. -/
theorem test_stosw_first :
    let t := after { State.reset with ax := 0x1234#16, di := 0x0010#16, flags := { Flags.clear with DF := true }
      } [0xAB]
    t.di = 0x000E#16 ∧ t.ip = 0x0001#16 ∧ t.memByte 0x00010#20 = 0x34#8 ∧ t.memByte 0x00011#20 = 0x12#8 := by
  decide

/-- V45-1. -/
theorem test_jmp_first :
    let t := after State.reset [0xE9, 0xFD, 0xFF]
    t.ip = 0x0000#16 := by
  decide

/-- V40-24. -/
theorem test_jmp_second :
    let t := after { State.reset with ip := 0xFFFF#16 } [0xEB, 0xFE]
    t.ip = 0xFFFF#16 := by
  decide

/-- V45-7. -/
theorem test_jmpf_first :
    let t := after State.reset [0xEA, 0x00, 0x01, 0x00, 0x20]
    t.cs = 0x2000#16 ∧ t.ip = 0x0100#16 := by
  decide

/-- V45-8. -/
theorem test_jmpf_second :
    let t := after { State.reset with mem := [(0x00200, 0x34#8), (0x00201, 0x12#8), (0x00202, 0x78#8), (0x00203,
      0x56#8)] } [0xFF, 0x2E, 0x00, 0x02]
    t.cs = 0x5678#16 ∧ t.ip = 0x1234#16 := by
  decide

/-- V40-22. -/
theorem test_jz_first :
    let t := after { State.reset with flags := { Flags.clear with ZF := true } } [0x74, 0xFE]
    t.ip = 0x0000#16 ∧ flagsAre t [(.ZF, true)] = true := by
  decide

/-- V40-23. -/
theorem test_jz_second :
    let t := after State.reset [0x74, 0xFE]
    t.ip = 0x0002#16 := by
  decide

/-- V45-10. -/
theorem test_jnz_first :
    let t := after { State.reset with flags := { Flags.clear with ZF := true } } [0x75, 0x05]
    t.ip = 0x0002#16 ∧ flagsAre t [(.ZF, true)] = true := by
  decide

/-- V45-11. -/
theorem test_jb_first :
    let t := after { State.reset with flags := { Flags.clear with CF := true } } [0x72, 0x10]
    t.ip = 0x0012#16 ∧ flagsAre t [(.CF, true)] = true := by
  decide

/-- V45-12. -/
theorem test_jl_first :
    let t := after { State.reset with flags := { Flags.clear with SF := true } } [0x7C, 0x10]
    t.ip = 0x0012#16 ∧ flagsAre t [(.SF, true)] = true := by
  decide

/-- V45-13. -/
theorem test_jg_first :
    let t := after { State.reset with flags := { Flags.clear with SF := true, OF := true } } [0x7F, 0x10]
    t.ip = 0x0012#16 ∧ flagsAre t [(.SF, true), (.OF, true)] = true := by
  decide

/-- V45-14. -/
theorem test_jbe_first :
    let t := after { State.reset with flags := { Flags.clear with ZF := true } } [0x76, 0x10]
    t.ip = 0x0012#16 ∧ flagsAre t [(.ZF, true)] = true := by
  decide

/-- V45-15. -/
theorem test_jp_first :
    let t := after State.reset [0x7A, 0x10]
    t.ip = 0x0002#16 := by
  decide

/-- V45-16. -/
theorem test_jcxz_first :
    let t := after State.reset [0xE3, 0x10]
    t.ip = 0x0012#16 := by
  decide

/-- V45-17. -/
theorem test_jcxz_second :
    let t := after { State.reset with cx := 0x0001#16 } [0xE3, 0x10]
    t.ip = 0x0002#16 := by
  decide

/-- V45-18. -/
theorem test_loop_first :
    let t := after { State.reset with cx := 0x0002#16 } [0xE2, 0xFE]
    t.cx = 0x0001#16 ∧ t.ip = 0x0000#16 := by
  decide

/-- V45-20. -/
theorem test_loop_second :
    let t := after State.reset [0xE2, 0xFE]
    t.cx = 0xFFFF#16 ∧ t.ip = 0x0000#16 := by
  decide

/-- V45-21. -/
theorem test_loopz_first :
    let t := after { State.reset with cx := 0x0003#16, flags := { Flags.clear with ZF := true } } [0xE1, 0x10]
    t.cx = 0x0002#16 ∧ t.ip = 0x0012#16 ∧ flagsAre t [(.ZF, true)] = true := by
  decide

/-- V45-22. -/
theorem test_loopz_second :
    let t := after { State.reset with cx := 0x0003#16 } [0xE1, 0x10]
    t.cx = 0x0002#16 ∧ t.ip = 0x0002#16 := by
  decide

/-- V45-23. -/
theorem test_loopnz_first :
    let t := after { State.reset with cx := 0x0003#16 } [0xE0, 0x10]
    t.cx = 0x0002#16 ∧ t.ip = 0x0012#16 := by
  decide

/-- V45-24. -/
theorem test_call_first :
    let t := after { State.reset with sp := 0x0100#16 } [0xE8, 0x10, 0x00]
    t.sp = 0x00FE#16 ∧ t.ip = 0x0013#16 ∧ t.memByte 0x000FE#20 = 0x03#8 ∧ t.memByte 0x000FF#20 = 0x00#8 := by
  decide

/-- V45-26. -/
theorem test_call_second :
    let t := after { State.reset with sp := 0x0100#16, mem := [(0x00200, 0x40#8)] } [0xFF, 0x16, 0x00, 0x02]
    t.sp = 0x00FE#16 ∧ t.ip = 0x0040#16 ∧ t.memByte 0x000FE#20 = 0x04#8 ∧ t.memByte 0x000FF#20 = 0x00#8 := by
  decide

/-- V45-27. -/
theorem test_callf_first :
    let t := after { State.reset with sp := 0x0100#16 } [0x9A, 0x00, 0x01, 0x00, 0x20]
    t.sp = 0x00FC#16 ∧ t.cs = 0x2000#16 ∧ t.ip = 0x0100#16 ∧ t.memByte 0x000FC#20 = 0x05#8 ∧ t.memByte
      0x000FD#20 = 0x00#8 ∧ t.memByte 0x000FE#20 = 0x00#8 ∧ t.memByte 0x000FF#20 = 0x00#8 := by
  decide

/-- V45-28. -/
theorem test_callf_second :
    let t := after { State.reset with sp := 0x0100#16, mem := [(0x00201, 0x01#8), (0x00203, 0x20#8)] } [0xFF,
      0x1E, 0x00, 0x02]
    t.sp = 0x00FC#16 ∧ t.cs = 0x2000#16 ∧ t.ip = 0x0100#16 ∧ t.memByte 0x000FC#20 = 0x04#8 ∧ t.memByte
      0x000FD#20 = 0x00#8 ∧ t.memByte 0x000FE#20 = 0x00#8 ∧ t.memByte 0x000FF#20 = 0x00#8 := by
  decide

/-- V45-29. -/
theorem test_ret_first :
    let t := after { State.reset with sp := 0x00FE#16, mem := [(0x000FE, 0x34#8), (0x000FF, 0x12#8)] } [0xC3]
    t.sp = 0x0100#16 ∧ t.ip = 0x1234#16 := by
  decide

/-- V45-30. -/
theorem test_ret_second :
    let t := after { State.reset with sp := 0x00FE#16, mem := [(0x000FE, 0x34#8), (0x000FF, 0x12#8)] } [0xC2,
      0x04, 0x00]
    t.sp = 0x0104#16 ∧ t.ip = 0x1234#16 := by
  decide

/-- V45-31. -/
theorem test_retf_first :
    let t := after { State.reset with sp := 0x00FC#16, mem := [(0x000FC, 0x34#8), (0x000FD, 0x12#8), (0x000FF,
      0x20#8)] } [0xCB]
    t.sp = 0x0100#16 ∧ t.cs = 0x2000#16 ∧ t.ip = 0x1234#16 := by
  decide

/-- V45-32. -/
theorem test_retf_second :
    let t := after { State.reset with sp := 0x00FC#16, mem := [(0x000FC, 0x34#8), (0x000FD, 0x12#8), (0x000FF,
      0x20#8)] } [0xCA, 0x02, 0x00]
    t.sp = 0x0102#16 ∧ t.cs = 0x2000#16 ∧ t.ip = 0x1234#16 := by
  decide

/-- V45-33. -/
theorem test_int_first :
    let t := after { State.reset with sp := 0x0100#16, flags := { Flags.clear with IF := true, CF := true }, mem
      := [(0x00085, 0x01#8), (0x00087, 0x20#8)] } [0xCD, 0x21]
    t.sp = 0x00FA#16 ∧ t.cs = 0x2000#16 ∧ t.ip = 0x0100#16 ∧ flagsAre t [(.CF, true), (.PF, false), (.AF,
      false), (.ZF, false), (.SF, false), (.IF, false), (.OF, false)] = true ∧ t.memByte 0x000FA#20 = 0x02#8 ∧
      t.memByte 0x000FB#20 = 0x00#8 ∧ t.memByte 0x000FC#20 = 0x00#8 ∧ t.memByte 0x000FD#20 = 0x00#8 ∧ t.memByte
      0x000FE#20 = 0x2B#8 ∧ t.memByte 0x000FF#20 = 0xF2#8 := by
  decide

/-- V45-34. -/
theorem test_int3_first :
    let t := after { State.reset with sp := 0x0100#16, mem := [(0x0000C, 0x50#8)] } [0xCC]
    t.sp = 0x00FA#16 ∧ t.ip = 0x0050#16 ∧ t.memByte 0x000FA#20 = 0x01#8 ∧ t.memByte 0x000FB#20 = 0x00#8 ∧
      t.memByte 0x000FC#20 = 0x00#8 ∧ t.memByte 0x000FD#20 = 0x00#8 ∧ t.memByte 0x000FE#20 = 0x2A#8 ∧ t.memByte
      0x000FF#20 = 0xF0#8 := by
  decide

/-- V45-35. -/
theorem test_into_first :
    let t := after { State.reset with sp := 0x0100#16, flags := { Flags.clear with OF := true }, mem :=
      [(0x00010, 0x60#8)] } [0xCE]
    t.sp = 0x00FA#16 ∧ t.ip = 0x0060#16 ∧ flagsAre t [(.OF, true)] = true ∧ t.memByte 0x000FA#20 = 0x01#8 ∧
      t.memByte 0x000FB#20 = 0x00#8 ∧ t.memByte 0x000FC#20 = 0x00#8 ∧ t.memByte 0x000FD#20 = 0x00#8 ∧ t.memByte
      0x000FE#20 = 0x2A#8 ∧ t.memByte 0x000FF#20 = 0xF8#8 := by
  decide

/-- V45-36. -/
theorem test_into_second :
    let t := after { State.reset with sp := 0x0100#16, mem := [(0x00010, 0x60#8)] } [0xCE]
    t.ip = 0x0001#16 := by
  decide

/-- V45-37. -/
theorem test_iret_first :
    let t := after { State.reset with sp := 0x00FA#16, mem := [(0x000FA, 0x34#8), (0x000FB, 0x01#8), (0x000FD,
      0x20#8), (0x000FE, 0x03#8), (0x000FF, 0x02#8)] } [0xCF]
    t.sp = 0x0100#16 ∧ t.cs = 0x2000#16 ∧ t.ip = 0x0134#16 ∧ flagsAre t [(.CF, true), (.PF, false), (.AF,
      false), (.ZF, false), (.SF, false), (.IF, true), (.OF, false)] = true := by
  decide

/-- V46-5. -/
theorem test_inp_first :
    let t := after { State.reset with ports := [(0x0080, 0x5A#8)] } [0xE4, 0x80]
    t.ax = 0x005A#16 ∧ t.ip = 0x0002#16 := by
  decide

/-- V46-8. -/
theorem test_inp_second :
    let t := after { State.reset with dx := 0x0300#16, ports := [(0x0300, 0x34#8), (0x0301, 0x12#8)] } [0xED]
    t.ax = 0x1234#16 ∧ t.ip = 0x0001#16 := by
  decide

/-- V46-2. -/
theorem test_out_first :
    let t := after { State.reset with ax := 0x1234#16 } [0xE7, 0x80]
    t.ip = 0x0002#16 ∧ t.portByte 0x0080#16 = 0x34#8 ∧ t.portByte 0x0081#16 = 0x12#8 := by
  decide

/-- V46-4. -/
theorem test_out_second :
    let t := after { State.reset with ax := 0x1234#16, dx := 0xFFFF#16 } [0xEF]
    t.ip = 0x0001#16 ∧ t.portByte 0x0000#16 = 0x12#8 ∧ t.portByte 0xFFFF#16 = 0x34#8 := by
  decide

/-- V46-9. -/
theorem test_clc_first :
    let t := after { State.reset with flags := { Flags.clear with CF := true } } [0xF8]
    t.ip = 0x0001#16 ∧ flagsAre t [(.CF, false), (.PF, false), (.AF, false), (.ZF, false), (.SF, false), (.OF,
      false)] = true := by
  decide

/-- V46-10. -/
theorem test_stc_first :
    let t := after State.reset [0xF9]
    t.ip = 0x0001#16 ∧ flagsAre t [(.CF, true), (.PF, false), (.AF, false), (.ZF, false), (.SF, false), (.OF,
      false)] = true := by
  decide

/-- V46-11. -/
theorem test_cmc_first :
    let t := after { State.reset with flags := { Flags.clear with CF := true } } [0xF5]
    t.ip = 0x0001#16 ∧ flagsAre t [(.CF, false), (.PF, false), (.AF, false), (.ZF, false), (.SF, false), (.OF,
      false)] = true := by
  decide

/-- V46-12. -/
theorem test_cld_first :
    let t := after { State.reset with flags := { Flags.clear with DF := true } } [0xFC]
    t.ip = 0x0001#16 ∧ flagsAre t [(.CF, false), (.PF, false), (.AF, false), (.ZF, false), (.SF, false), (.DF,
      false), (.OF, false)] = true := by
  decide

/-- V46-13. -/
theorem test_std_first :
    let t := after State.reset [0xFD]
    t.ip = 0x0001#16 ∧ flagsAre t [(.CF, false), (.PF, false), (.AF, false), (.ZF, false), (.SF, false), (.DF,
      true), (.OF, false)] = true := by
  decide

/-- V46-14. -/
theorem test_cli_first :
    let t := after { State.reset with flags := { Flags.clear with IF := true } } [0xFA]
    t.ip = 0x0001#16 ∧ flagsAre t [(.CF, false), (.PF, false), (.AF, false), (.ZF, false), (.SF, false), (.IF,
      false), (.OF, false)] = true := by
  decide

/-- V46-15. -/
theorem test_sti_first :
    let t := after State.reset [0xFB]
    t.ip = 0x0001#16 ∧ flagsAre t [(.CF, false), (.PF, false), (.AF, false), (.ZF, false), (.SF, false), (.IF,
      true), (.OF, false)] = true := by
  decide

/-- V46-16. -/
theorem test_hlt_first :
    let t := after { State.reset with ip := 0x0010#16 } [0xF4]
    t.ip = 0x0011#16 ∧ t.status = .halted 0x00010#20 := by
  decide

/-- V46-17. -/
theorem test_wait_first :
    let t := after State.reset [0x9B]
    t.ip = 0x0001#16 := by
  decide

/-- V46-18. -/
theorem test_esc_first :
    let t := after State.reset [0xD9, 0xC0]
    t.ip = 0x0002#16 ∧ t.status = .unhandled .esc 0x00000#20 := by
  decide

/-- V46-19. -/
theorem test_esc_second :
    let t := after State.reset [0xDD, 0x06, 0x34, 0x12]
    t.ip = 0x0004#16 ∧ t.status = .unhandled .esc 0x00000#20 := by
  decide

/-- V40-6. -/
theorem test_ds_first :
    let t := after { State.reset with bp := 0x0010#16, ss := 0x1000#16, ds := 0x2000#16, mem := [(0x1000E,
      0x34#8), (0x1000F, 0x12#8), (0x2000E, 0x78#8), (0x2000F, 0x56#8)] } [0x3E, 0x8B, 0x46, 0xFE]
    t.ax = 0x5678#16 ∧ t.ip = 0x0004#16 := by
  decide

/-- V43-6. -/
theorem test_es_first :
    let t := after { State.reset with ax := 0xBEEF#16, es := 0x1000#16 } [0x26, 0xA3, 0x00, 0x02]
    t.ip = 0x0004#16 ∧ t.memByte 0x10200#20 = 0xEF#8 ∧ t.memByte 0x10201#20 = 0xBE#8 := by
  decide

/-- V44-19. -/
theorem test_rep_first :
    let t := after State.reset [0xF3, 0x90]
    t.ip = 0x0002#16 := by
  decide

/-- V60-7. -/
theorem test_lock_first :
    let t := after { State.reset with params := { State.reset.params with lockPrefix := .ignore } } [0xF0, 0x90]
    t.ip = 0x0002#16 := by
  decide

/-- V43-23. -/
theorem test_invalid_first :
    let t := after State.reset [0x0F]
    t.ip = 0x0000#16 ∧ t.status = .decodeError .invalidOpcode 0x00000#20 [0x0F#8] := by
  decide

/-- V60-17. -/
theorem test_invalid_second :
    let t := after State.reset [0x66, 0x90]
    t.ip = 0x0000#16 ∧ t.status = .decodeError .invalidOpcode 0x00000#20 [0x66#8] := by
  decide

/-- By hand from R905, R460. -/
theorem test_jo_step :
    let t := after { State.reset with flags := { Flags.clear with OF := true } } [0x70, 0x10]
    t.ip = 0x0012#16 := by
  decide

/-- By hand from R905, R460. -/
theorem test_jno_step :
    let t := after { State.reset with flags := { Flags.clear with OF := true } } [0x71, 0x10]
    t.ip = 0x0002#16 := by
  decide

/-- By hand from R905, R460. -/
theorem test_jnb_step :
    let t := after { State.reset with flags := { Flags.clear with ZF := true } } [0x73, 0x10]
    t.ip = 0x0012#16 := by
  decide

/-- By hand from R905, R460. -/
theorem test_ja_step :
    let t := after { State.reset with flags := { Flags.clear with CF := true } } [0x77, 0x10]
    t.ip = 0x0002#16 := by
  decide

/-- By hand from R905, R460. -/
theorem test_js_step :
    let t := after { State.reset with flags := { Flags.clear with SF := true } } [0x78, 0x80]
    t.ip = 0xFF82#16 := by
  decide

/-- By hand from R905, R460. -/
theorem test_jns_step :
    let t := after { State.reset with flags := { Flags.clear with SF := true } } [0x79, 0x10]
    t.ip = 0x0002#16 := by
  decide

/-- By hand from R905, R460. -/
theorem test_jnp_step :
    let t := after State.reset [0x7B, 0x10]
    t.ip = 0x0012#16 := by
  decide

/-- By hand from R905, R460. -/
theorem test_jnl_step :
    let t := after { State.reset with flags := { Flags.clear with SF := true, OF := true } } [0x7D, 0x10]
    t.ip = 0x0012#16 := by
  decide

/-- By hand from R905, R460. -/
theorem test_jle_step :
    let t := after { State.reset with flags := { Flags.clear with OF := true } } [0x7E, 0x10]
    t.ip = 0x0012#16 := by
  decide

/-- By hand from R803. -/
theorem test_cmpsw_step :
    let t := after { State.reset with si := 0x0100#16, di := 0x0200#16, mem := [(0x00101, 0x80#8), (0x00200,
      0x01#8)] } [0xA7]
    t.si = 0x0102#16 ∧ t.di = 0x0202#16 ∧ flagsAre t [(.CF, false), (.OF, true), (.ZF, false)] = true := by
  decide

/-- By hand from R801. -/
theorem test_repne_step :
    let t := after { State.reset with ax := 0x0041#16, di := 0x0010#16, cx := 0x0005#16 } [0xF2, 0xAE]
    t.cx = 0x0004#16 ∧ t.di = 0x0011#16 ∧ t.ip = 0x0000#16 := by
  decide

/-- By hand from R306, R707. -/
theorem test_cs_step :
    let t := after { State.reset with cs := 0x1000#16, bx := 0x0200#16, ax := 0x0003#16, mem := [(0x10203,
      0x99#8)] } [0x2E, 0xD7]
    t.ax = 0x0099#16 ∧ t.ip = 0x0002#16 := by
  decide

/-- By hand from R306, R421. -/
theorem test_ss_step :
    let t := after { State.reset with ss := 0x1000#16, mem := [(0x10000, 0x34#8)] } [0x36, 0x8B, 0x07]
    t.ax = 0x0034#16 ∧ t.ip = 0x0003#16 := by
  decide

/-! ### Hypotheses that can be met

One theorem per statement with hypotheses, each at concrete values; where a statement has several cases, one
line for each. -/

/-- Reset with `LOCK_PREFIX = ignore`. -/
def lockIgnored : State := { State.reset with params := { State.reset.params with lockPrefix := .ignore } }

/-- Reset with `EXEC_PROFILE = source`. -/
def sourceOnly : State := { State.reset with params := Params.default }

/-- Reset with a memory array of 5,000 bytes. -/
def smallMemory : State := { State.reset with params := { State.reset.params with memSize := 5000 } }

/-- Reset with bytes at flat address 0, where the first instruction is. -/
def withCode (bs : List Nat) : State := State.reset.loadImage 0 (bs.map (BitVec.ofNat 8))

/-- Reset with bytes at flat address 0 and `DECODE_TRACE = reference`. -/
def traced (bs : List Nat) : State :=
  { withCode bs with params := { State.reset.params with decodeTrace := .reference } }

/-- What `Runs` and `RunsTo` ask: in both profiles, with and without prefixes, LOCK among them. -/
theorem witness_runs :
    State.reset.allows [] ∧ State.reset.allows [.rep, .es] ∧ lockIgnored.allows [.lock] ∧
    State.reset.executes (.mul (.eb (.reg .bl))) ∧ sourceOnly.executes (.add (.alib 1#8)) := by
  simp [State.allows, State.executes, State.reset, lockIgnored, sourceOnly, Params.default, Instr.tier]

theorem witness_DecodeOfEncode :
    let i : Instr := .es (.mov (.ewiw (.mem (.disp8 .bx 0x02#8)) 0x1234#16))
    i.encodable Params.default = true ∧
    ∀ k, k < i.len → streamOf [0x26#8, 0xC7#8, 0x47#8, 0x02#8, 0x34#8, 0x12#8] k = i.encode.getD k 0#8 := by
  decide

theorem witness_EncodeOfDecode : decode Params.default (streamOf [0x83#8, 0xC0#8, 0xFF#8]) =
    .ok (.add (.ewibs (.reg .ax) 0xFF#8)) := by decide

theorem witness_DecodeReadsOnlyItsBytes :
    let p := Params.default
    let q := { Params.default with memSize := 5000, execProfile := .full }
    let c := streamOf [0x8C#8, 0xE0#8]
    p.lockPrefix = q.lockPrefix ∧ p.maxInsnLen = q.maxInsnLen ∧
    ∀ k, k < (decode p c).read → c k = streamOf [0x8C#8, 0xE0#8, 0x77#8] k := by
  decide

/-- One rejected and one accepted pair of bytes. -/
theorem witness_InvalidEncodings :
    6 ≤ Params.default.maxInsnLen ∧ prefixAt Params.default 0xFF#8 = none ∧
    listedInvalid Params.default 0xFF#8 0xF8#8 = true ∧ listedInvalid Params.default 0xFF#8 0xF0#8 = false := by
  decide

/-- Nothing but prefixes; at the limit; one byte over it. -/
theorem witness_LengthLimit :
    let p := { Params.default with maxInsnLen := 3 }
    let fits := streamOf [0x26#8, 0x04#8, 0x01#8]
    let longer := streamOf [0x26#8, 0x05#8, 0x01#8, 0x02#8]
    (∀ k, k < p.maxInsnLen → (prefixAt p (streamOf [0x26#8, 0xF3#8, 0x2E#8] k)).isSome = true) ∧
    isPrefix (.add (.alib 1#8)) = false ∧ (Prefix.wrapAll [.es] (.add (.alib 1#8))).wf p = true ∧
    (∀ k, k < 3 → fits k = (Prefix.wrapAll [.es] (.add (.alib 1#8))).encode.getD k 0#8) ∧
    (∀ k, k < 4 → longer k = (Prefix.wrapAll [.es] (.add (.axiw 0x0201#16))).encode.getD k 0#8) ∧
    decode p fits = .ok (.es (.add (.alib 1#8))) ∧ decode p longer = .error .tooLong 4 := by
  decide

theorem witness_StepRunsDecodedInstruction :
    (withCode [0xCD, 0x21]).decoded = .ok (.int 0x21#8) := by decide

theorem witness_DecodeErrorChangesNothing :
    (withCode [0xF6, 0xC8, 0x01]).decoded = .error .invalidOpcode 2 ∧ State.reset.allows [.rep] :=
  ⟨by decide, by simp [State.allows]⟩

/-- A state with memory and ports that meets the invariant, and its step. -/
theorem witness_StepKeepsInvariant :
    let s := { withCode [0xE7, 0x80] with ports := [(0x80, 0x11#8)] }
    s.inv = true ∧ ∃ t, step s = .next t :=
  ⟨by decide, _, rfl⟩

/-- Contained; reference with a group opcode under a prefix; reference with another opcode; the errors: a group
opcode rejected by its lookup and by a later check, another opcode under a prefix, and prefixes alone. -/
theorem witness_DecodeEventsLieInside :
    (withCode [0x90]).params.decodeTrace = .contained ∧
    (traced [0x26, 0xFE, 0x07]).params.decodeTrace = .reference ∧
    (traced [0x26, 0xFE, 0x07]).decoded = .ok (Prefix.wrapAll [.es] (.inc (.eb (.mem (.indirect .bx))))) ∧
    isPrefix (.inc (.eb (.mem (.indirect .bx)))) = false ∧
    isGroupOpcode ((traced [0x26, 0xFE, 0x07]).code 1) = true ∧
    (traced [0x04, 0x01]).decoded = .ok (Prefix.wrapAll [] (.add (.alib 1#8))) ∧
    isGroupOpcode ((traced [0x04, 0x01]).code 0) = false ∧
    (traced [0xF6, 0xC8]).decoded = .error .invalidOpcode 2 ∧ (traced [0xFF, 0xD8]).decoded = .error .badModrm 2 ∧
    (traced [0x26, 0x60]).decoded = .error .invalidOpcode 2 ∧ prefixAt State.reset.params 0x60#8 = none ∧
    (∀ k, k < 1 → (prefixAt State.reset.params ((traced [0x26, 0x60]).code k)).isSome = true) ∧
    ∀ k, k < 16 → (prefixAt State.reset.params ((traced (List.replicate 16 0x26)).code k)).isSome = true := by
  decide

/-- The events of `FE 06 00 02` in the reference trace: group opcode, ModRM twice, and pass 2 (section 4). -/
theorem test_reference_trace : (traced [0xFE, 0x06, 0x00, 0x02]).trace = [0, 1, 1, 2, 3, 0, 1, 2, 3] := by decide

/-- Errors in the reference trace: pass 1 stops at the failing byte and there is no pass 2 (R233). -/
theorem test_reference_trace_error :
    (traced [0xFF, 0xD8]).trace = [0, 1, 1] ∧ (traced [0x26, 0x60]).trace = [0, 1] := by decide

theorem witness_DecodeEventsComeFirst : ∃ t, step (withCode [0xAA]) = .next t := ⟨_, rfl⟩

theorem witness_ByteRegistersAlias : Reg16.sp ∉ [Reg16.ax, .cx, .dx, .bx] := by decide

theorem witness_FlagsPackAndUnpack :
    0xF02A#16 &&& 0x0FD5#16 = 0#16 ∧ 0xF002#16 &&& 0x0FD5#16 = 0#16 := by decide

theorem witness_AddressesAndSegments :
    (insAt [.es] .nop State.reset).seg = some .es ∧ (insAt [.rep] .nop State.reset).seg = none := by decide

/-- The last word below 2^20 in both wraps, and the last word of a small memory. -/
theorem witness_MixedWidthAccesses :
    State.reset.holdsWord 0xFFFF#16 0x000F#16 ∧ smallMemory.holdsWord 0x0000#16 0x1386#16 := by
  unfold State.holdsWord State.holds; decide

/-- The first address above a small memory; the last one below it is held. -/
theorem witness_OutOfRangeAccesses : ¬ smallMemory.holds 0x01388#20 ∧ smallMemory.holds 0x01387#20 := by
  unfold State.holds; decide

theorem witness_OperandWriteThenRead :
    State.reset.holdsLoc (.r8 .bh) ∧ State.reset.holdsLoc (.sreg .ss) ∧
    smallMemory.holdsLoc (.mem8 0x0000#16 0x1387#16) ∧ smallMemory.holdsLoc (.mem16 0x0000#16 0x1386#16) := by
  refine ⟨trivial, trivial, ?_, ?_⟩ <;> simp only [State.holdsLoc, State.holdsWord, State.holds] <;> decide

/-- SP = 0, so the slot is at SS:0xFFFE. -/
theorem witness_PushThenPop : State.reset.holdsWord State.reset.ss (State.reset.sp - 2) := by
  unfold State.holdsWord State.holds; decide

/-- Both widths of the machine, and values on either side of each comparison. -/
theorem witness_AdditionFlags :
    4 < 8 ∧ 4 < 16 ∧ (addFlags 0xFF#8 0x01#8 false Flags.clear).2.CF = true ∧
    (addFlags 0xFF#8 0x00#8 false Flags.clear).2.CF = false ∧ (addFlags 0x7F#8 0x00#8 true Flags.clear).2.OF = true ∧
    (addFlags 0x7E#8 0x00#8 true Flags.clear).2.OF = false := by
  decide

theorem witness_SubtractionFlags :
    4 < 8 ∧ 4 < 16 ∧ (subFlags 0x00#8 0x00#8 true Flags.clear).2.CF = true ∧
    (subFlags 0x01#8 0x00#8 true Flags.clear).2.CF = false ∧ (subFlags 0x80#8 0x00#8 true Flags.clear).2.OF = true ∧
    (subFlags 0x81#8 0x00#8 true Flags.clear).2.OF = false := by
  decide

theorem witness_ConditionsAfterCompare :
    0 < 8 ∧ condL (subFlags 0x80#8 0x7F#8 false Flags.clear).2 = true ∧
    condB (subFlags 0x80#8 0x7F#8 false Flags.clear).2 = false := by
  decide

/-- DIV: a zero divisor, quotients 0xFF and 0x100; IDIV: quotients -127, -128 in both ranges, -129, 127, 128. -/
theorem witness_DivideResults :
    (0xFF0 : Nat) / 0x10 ≤ 0xFF ∧ 0xFF < (0x1000 : Nat) / 0x10 ∧
    (0xFFFF0 : Nat) / 0x10 ≤ 0xFFFF ∧ 0xFFFF < (0x100000 : Nat) / 0x10 ∧
    Int.tdiv (-254) 2 = -127 ∧ Int.tdiv (-256) 2 = -128 ∧ Int.tdiv (-258) 2 < -128 ∧ Int.tdiv 255 2 = 127 ∧
    127 < Int.tdiv 256 2 ∧ Int.tdiv (-65536) 2 = -32768 ∧ Int.tdiv (-65534) 2 = -32767 ∧
    32767 < Int.tdiv 65536 2 ∧ State.reset.params.idiv8086Range = true ∧
    State.reset.executes (.idiv (.ew (.reg .cx))) ∧ State.reset.allows [] := by
  simp [State.executes, State.allows, State.reset, Params.default]

theorem witness_DivideErrorModes :
    State.reset.params.divErrorMode = .report ∧ Params.hw8086.divErrorMode = .vector := by decide

theorem witness_AdjustAndExtendResults : (0x0A#8 : Byte) ≠ 0#8 ∧ (0xFF#8 : Byte) ≠ 0#8 := by decide

theorem witness_ShiftClosedForms : 0 < 16 ∧ 0 < 17 := by decide

theorem witness_MovResults :
    let u := State.reset.start [] (.mov (.obal 0xFFFF#16))
    u.holdsLoc (movPair (insAt [] (.mov (.obal 0xFFFF#16)) State.reset) u (.obal 0xFFFF#16)).dst := by
  simp only [movPair, memLoc8, State.holdsLoc, State.holds]; decide

theorem witness_StringIterationResults :
    (stringRule .cmpsw).isSome = true ∧ (insAt [.es] .cmpsw State.reset).rep = none := by decide

/-- CX = 0; CX = 1, the last iteration; CX = 2 with ZF for and against the prefix. -/
theorem witness_RepeatDriver :
    (stringRule .scasb).isSome = true ∧ (insAt [.repne] .scasb State.reset).rep ≠ none ∧
    (State.reset.start [.repne] .scasb).cx = 0#16 ∧ repeatMode [.repne] = some .repNe ∧
    repeatMode [.repne, .rep] = some .repE ∧ (after { State.reset with cx := 1#16, di := 0x100#16 } [0xF3, 0xAE]).ip = 2#16 ∧
    (after { State.reset with cx := 2#16, di := 0x100#16 } [0xF3, 0xAE]).ip = 0#16 ∧
    (after { State.reset with cx := 2#16, di := 0x100#16 } [0xF2, 0xAE]).ip = 2#16 ∧
    (after { State.reset with cx := 2#16 } [0xF2, 0xAA]).ip = 0#16 := by
  decide

/-- INTO with OF 1 and with OF 0. -/
theorem witness_InterruptResults :
    let s := { State.reset with flags := { Flags.clear with OF := true } }
    (s.start [] .into).flags.OF = true ∧ (State.reset.start [] .into).flags.OF = false ∧
    State.reset.executes .into ∧ State.reset.allows [] := by
  refine ⟨by decide, by decide, ?_, ?_⟩ <;> simp [State.executes, State.allows, State.reset, Params.default]

/-- SP = 1: the first slot straddles SS:0xFFFF. -/
theorem witness_InterruptEntryFrame :
    let s := { State.reset with sp := 1#16 }
    s.holdsWord s.ss (s.sp - 2) ∧ s.holdsWord s.ss (s.sp - 4) ∧ s.holdsWord s.ss (s.sp - 6) := by
  simp only [State.holdsWord, State.holds]; decide

theorem witness_EntryThenReturn :
    let s := { State.reset with sp := 4#16 }
    s.holdsWord s.ss (s.sp - 2) ∧ s.holdsWord s.ss (s.sp - 4) ∧ s.holdsWord s.ss (s.sp - 6) ∧
    s.params.flagsFixedOnes &&& 0x0FD5#16 = 0#16 := by
  simp only [State.holdsWord, State.holds]; decide

theorem witness_PortResults :
    let s := { State.reset with params := { State.reset.params with portDevices := [0x0080#16] } }
    0x0081#16 ∉ s.params.portDevices ∧ 0x0080#16 ∈ s.params.portDevices ∧ (0xFFFF#16 : Word) ≠ 0x0000#16 := by
  decide

/-- HLT with and without a prefix, and what the next step finds after it (R1102). -/
theorem witness_FlagControlAndHalt :
    (withCode [0xF4]).decoded = .ok (Prefix.wrapAll [] .hlt) ∧
    (withCode [0xF3, 0xF4, 0x40]).decoded = .ok (Prefix.wrapAll [.rep] .hlt) ∧
    (after State.reset [0xF3, 0xF4, 0x40]).decoded = .ok (.inc (.r16 .ax)) := by
  decide

theorem witness_UnhandledForms :
    sourceOnly.allows [.rep, .cs] ∧ isPrefix (.mul (.eb (.reg .bl))) = false ∧
    (Instr.mul (.eb (.reg .bl))).cls ≠ .invalid ∧ sourceOnly.params.execProfile = .source ∧
    (Instr.mul (.eb (.reg .bl))).tier = .general ∧ isPrefix (.ret (.imm 4#16)) = false :=
  ⟨by simp [State.allows], by decide, by decide, by decide, by decide, by decide⟩

theorem witness_PrefixContext :
    State.reset.params.execProfile = .full ∧ lockIgnored.params.execProfile = .full ∧
    lockIgnored.params.lockPrefix = .ignore ∧ State.reset.params.lockPrefix = .invalid ∧
    Prefix.lock ∈ [Prefix.rep, .repne, .lock] ∧ Prefix.ds ∈ [Prefix.es, .cs, .ss, .ds, .lock] := by
  decide

/-- Each frame's hypothesis, at an instruction it names. -/
theorem witness_ArithmeticFrame :
    ∃ t, exec (Prefix.wrapAll [.es] (.add (.ebgb (.mem (.indirect .di)) .bl))) State.reset = .next t := ⟨_, rfl⟩

theorem witness_LogicAndShiftFrame :
    ∃ t, exec (Prefix.wrapAll [] (.rcr (.ewcl (.reg .ax)))) { State.reset with cx := 17#16 } = .next t := ⟨_, rfl⟩

theorem witness_MultiplyDivideAdjustFrame :
    ∃ t, exec (Prefix.wrapAll [.rep] (.idiv (.eb (.reg .bl)))) { State.reset with bx := 2#16 } = .next t := ⟨_, rfl⟩

theorem witness_TransferFrame : ∃ t, exec (Prefix.wrapAll [] (.pop (.r16 .sp))) State.reset = .next t := ⟨_, rfl⟩

theorem witness_StringFrame :
    ∃ t, exec (Prefix.wrapAll [.rep] .movsw) { State.reset with cx := 3#16 } = .next t := ⟨_, rfl⟩

theorem witness_ControlTransferFrame :
    ∃ t, exec (Prefix.wrapAll [] .into) { State.reset with flags := { Flags.clear with OF := true } } = .next t :=
  ⟨_, rfl⟩

theorem witness_PortAndMiscFrame :
    ∃ t, exec (Prefix.wrapAll [] (.out .axdx)) { State.reset with dx := 0xFFFF#16 } = .next t := ⟨_, rfl⟩

/-- Each of the four segment registers changes at some well-formed instruction. -/
theorem witness_SegmentRegisterWriters :
    (Instr.jmpf (.ptr 0x1234#16 0x5678#16)).wf State.reset.params = true ∧
    (after State.reset [0xEA, 0x78, 0x56, 0x34, 0x12]).cs ≠ State.reset.cs ∧
    (after { State.reset with ax := 1#16 } [0x8E, 0xC0]).es ≠ State.reset.es ∧
    (after { State.reset with ax := 1#16 } [0x8E, 0xD0]).ss ≠ State.reset.ss ∧
    (after { State.reset with ax := 1#16 } [0x8E, 0xD8]).ds ≠ State.reset.ds := by
  decide

/-- Each control flag, CF, OF and one of the other four change at some instruction. -/
theorem witness_FlagWriters :
    (after State.reset [0xFD]).flags.DF ≠ State.reset.flags.DF ∧
    (after State.reset [0xFB]).flags.IF ≠ State.reset.flags.IF ∧
    (after { State.reset with flags := { Flags.clear with TF := true } } [0xCC]).flags.TF ≠ true ∧
    (after State.reset [0xF9]).flags.CF ≠ State.reset.flags.CF ∧
    (after { State.reset with ax := 0x7FFF#16 } [0x40]).flags.OF ≠ State.reset.flags.OF ∧
    (after State.reset [0x48]).flags.SF ≠ State.reset.flags.SF := by
  decide

theorem witness_MemoryAndPortWriters :
    (after { State.reset with ax := 0x55#16, di := 0x10#16 } [0xAA]).memByte 0x10#20 = 0x55#8 ∧
    (after { State.reset with ax := 0x55#16 } [0xE6, 0x80]).portByte 0x80#16 = 0x55#8 ∧
    State.reset.memByte 0x10#20 = 0#8 ∧ State.reset.portByte 0x80#16 = 0#8 := by
  decide

/-- Each status but `continued` at some instruction. -/
theorem witness_StatusOutcomes :
    (after State.reset [0xF4]).status = .halted 0#20 ∧
    (after State.reset [0xF6, 0xF3]).status = .divideError .divideByZero .div 0#20 ∧
    (after State.reset [0xD9, 0xC0]).status = .unhandled .esc 0#20 ∧
    (after State.reset [0x60]).status = .decodeError .invalidOpcode 0#20 [0x60#8] := by
  decide

end Sys2Proof.Tests
end

section
/-! PROOFS. The state: the flags word, the reset values, the byte registers. -/

namespace Sys2Proof.Machine

/-! ### The bits of the packed flags word -/

theorem getElem_flagBit (b : Bool) (k : Nat) {j : Nat} (hj : j < 16) :
    (flagBit b k)[j] = (decide (j = k) && b) := by
  by_cases hjk : j < k
  · simp [flagBit, hjk, Nat.ne_of_lt hjk]
  · have hk : (j - k = 0) = (j = k) := propext (by omega)
    cases b <;> simp [flagBit, hjk, hk]

/-- The flag that stands at bit `k` of the packed word; a reserved bit has none (R121). -/
def Flags.bit (f : Flags) : Nat → Bool
  | 0 => f.CF
  | 2 => f.PF
  | 4 => f.AF
  | 6 => f.ZF
  | 7 => f.SF
  | 8 => f.TF
  | 9 => f.IF
  | 10 => f.DF
  | 11 => f.OF
  | _ => false

/-- Bit `k` of the packed word is the fixed one or the flag that stands there (R122). -/
theorem Flags.getElem_pack (ones : Word) (f : Flags) {k : Nat} (hk : k < 16) :
    (f.pack ones)[k] = (ones[k] || f.bit k) := by
  interval_cases k <;> simp [Flags.pack, Flags.bit, getElem_flagBit]

/-- No flag stands at a reserved bit. -/
theorem Flags.bit_and_reserved (f : Flags) {k : Nat} (hk : k < 16) : (f.bit k && (0xF02A#16)[k]) = false := by
  interval_cases k <;> simp [Flags.bit]

/-- Every bit but the reserved ones is unpacked into the flag that stands there (R123). -/
theorem Flags.bit_unpack (v : Word) {k : Nat} (hk : k < 16) :
    (Flags.unpack v).bit k = (v[k] && !(0xF02A#16)[k]) := by
  interval_cases k <;> simp [Flags.bit, Flags.unpack]

/-- The nine flags are the bits of the packed word that have one. -/
theorem Flags.eq_of_bit_eq {f g : Flags} (h : ∀ k < 16, f.bit k = g.bit k) : f = g := by
  cases f
  cases g
  rw [Flags.mk.injEq]
  exact ⟨h 0 (by decide), h 2 (by decide), h 4 (by decide), h 6 (by decide), h 7 (by decide), h 8 (by decide),
    h 9 (by decide), h 10 (by decide), h 11 (by decide)⟩

/-- Unpacking gives the packed flags back when the fixed ones are reserved bits (R123). -/
theorem Flags.unpack_pack {ones : Word} (f : Flags) (h : ones &&& ~~~0xF02A#16 = 0#16) :
    Flags.unpack (f.pack ones) = f := by
  refine Flags.eq_of_bit_eq fun k hk => ?_
  have hones : (ones[k] && !(0xF02A#16)[k]) = false := by
    rw [← BitVec.getElem_not, ← BitVec.getElem_and, h, BitVec.getElem_zero]
  have hbit := f.bit_and_reserved hk
  rw [Flags.bit_unpack _ hk, Flags.getElem_pack]
  revert hones hbit
  cases ones[k] <;> cases (0xF02A#16)[k] <;> cases f.bit k <;> decide

end Sys2Proof.Machine

open Sys2Proof Sys2Proof.Machine

/-- Settles O16: byte registers read and write the halves that `Reg8.whole` and `Reg8.isHigh` name (R101). -/
theorem byteRegistersAlias : Obligations.ByteRegistersAlias := by
  unfold Obligations.ByteRegistersAlias
  refine ⟨fun s => ⟨rfl, rfl, rfl, rfl, rfl, rfl, rfl, rfl⟩, State.getR8_setR8, fun s r q v hq => ?_⟩
  have hne : Reg8.whole r ≠ q := by rintro rfl; cases r <;> simp [Reg8.whole] at hq
  exact State.getR16_setR8_ne s hne v

/-- Settles O13: each register and flag by name, and both byte lists empty. -/
theorem resetValues : Obligations.ResetValues := by
  unfold Obligations.ResetValues
  have hflags : ∀ n, State.reset.flags.get n = false := by intro n; cases n <;> rfl
  have hmem : ∀ a, State.reset.memByte a = 0#8 := fun a => ite_self _
  exact ⟨by intro r; cases r <;> rfl, by intro g; cases g <;> rfl, rfl, hflags, hmem, fun _ => rfl, by decide,
    rfl, rfl, rfl, rfl, rfl, rfl, rfl, rfl, rfl, rfl, rfl⟩

/-- Settles O17, bit by bit. -/
theorem flagsPackAndUnpack : Obligations.FlagsPackAndUnpack := by
  unfold Obligations.FlagsPackAndUnpack
  refine ⟨fun s => rfl, fun ones f => ⟨?_, ?_⟩, fun v => ⟨rfl, rfl, rfl, rfl, rfl, rfl, rfl, rfl, rfl⟩,
    fun ones f => f.unpack_pack, fun v => ?_⟩
  · refine BitVec.eq_of_getElem_eq fun k hk => ?_
    simp [Flags.getElem_pack]
  · refine BitVec.eq_of_getElem_eq fun k hk => ?_
    simpa [Flags.getElem_pack] using f.bit_and_reserved hk
  · refine BitVec.eq_of_getElem_eq fun k hk => ?_
    rw [Flags.getElem_pack, Flags.bit_unpack v hk, BitVec.getElem_or]
    cases v[k] <;> cases (0xF02A#16)[k] <;> rfl
end

section
/-! PROOFS. Which parts of the state an instruction can write at all: segment registers, flags, memory and
ports. `classScope` is the table, `exec_within` says that every execution stays within it. -/

namespace Sys2Proof.Machine

/-! ### Scopes -/

/-- The kinds of state an instruction may write, whatever its operands are. -/
structure Scope where
  segs : List SReg := []
  flags : List FlagName := []
  mem : Bool := false
  ports : Bool := false

/-- From `s` to `t` no segment register, flag, memory or port outside the scope changes. -/
def Within (s t : State) (e : Scope) : Prop :=
  (∀ g, g ∉ e.segs → t.getSReg g = s.getSReg g) ∧ (∀ n, n ∉ e.flags → t.flags.get n = s.flags.get n) ∧
  (e.mem = false → t.mem = s.mem) ∧ (e.ports = false → t.ports = s.ports)

theorem Within.refl (s : State) (e : Scope) : Within s s e :=
  ⟨fun _ _ => rfl, fun _ _ => rfl, fun _ => rfl, fun _ => rfl⟩

theorem Within.trans {s t u : State} {e : Scope} (h : Within s t e) (k : Within t u e) : Within s u e := by
  obtain ⟨hs, hf, hm, hp⟩ := h
  obtain ⟨ks, kf, km, kp⟩ := k
  exact ⟨fun g hg => (ks g hg).trans (hs g hg), fun n hn => (kf n hn).trans (hf n hn),
    fun he => (km he).trans (hm he), fun he => (kp he).trans (hp he)⟩

/-! ### Flags that differ in status flags only -/

/-- The control flags TF, IF and DF are the same. -/
def Flags.SameControl (f g : Flags) : Prop := f.TF = g.TF ∧ f.IF = g.IF ∧ f.DF = g.DF

theorem Flags.SameControl.get {f g : Flags} (h : f.SameControl g) {n : FlagName} (hn : n ∉ statusFlags) :
    f.get n = g.get n := by
  obtain ⟨hT, hI, hD⟩ := h
  cases n
  case TF => exact hT
  case IF => exact hI
  case DF => exact hD
  all_goals exact absurd (by decide) hn

theorem addFlags_sameControl {w : Nat} (a b : BitVec w) (c : Bool) (f : Flags) :
    (addFlags a b c f).2.SameControl f := ⟨rfl, rfl, rfl⟩

theorem subFlags_sameControl {w : Nat} (a b : BitVec w) (c : Bool) (f : Flags) :
    (subFlags a b c f).2.SameControl f := ⟨rfl, rfl, rfl⟩

theorem logicFlags_sameControl {w : Nat} (r : BitVec w) (f : Flags) : (logicFlags r f).SameControl f :=
  ⟨rfl, rfl, rfl⟩

/-- The parts that an interrupt entry may write (R1131). -/
def entryScope : Scope := { segs := [.cs], flags := [.IF, .TF], mem := true }

/-- The parts that a division or AAM may write: it ends with drawn flags or with a divide error. -/
def divideScope : Scope := { segs := [.cs], flags := statusFlags ++ [.IF, .TF], mem := true }

/-- The flags that INC and DEC write: CF is kept (R455). -/
def incFlagNames : List FlagName := [.PF, .AF, .ZF, .SF, .OF]

theorem incFlags_get {w : Nat} (a : BitVec w) (f : Flags) {n : FlagName} (h : n ∉ incFlagNames) :
    (incFlags a f).2.get n = f.get n := by
  cases n
  case CF | TF | IF | DF => rfl
  all_goals exact absurd (by decide) h

theorem decFlags_get {w : Nat} (a : BitVec w) (f : Flags) {n : FlagName} (h : n ∉ incFlagNames) :
    (decFlags a f).2.get n = f.get n := by
  cases n
  case CF | TF | IF | DF => rfl
  all_goals exact absurd (by decide) h

/-! ### What each operation of a rule adds -/

section
variable {s t u : State} {e : Scope}

/-- One more operation, by what it keeps (`Keeps`) and whether it leaves memory and ports as they are. -/
theorem Within.keeps (h : Within s t e) {fp : Footprint} (k : Keeps t u fp) (hs : fp.segs ⊆ e.segs := by simp)
    (hf : fp.flags ⊆ e.flags := by simp) (hm : e.mem = false → u.mem = t.mem := by simp)
    (hp : e.ports = false → u.ports = t.ports := by simp) : Within s u e := by
  obtain ⟨-, -, ks, kf, -⟩ := k
  exact h.trans ⟨fun g hg => ks g fun hm => hg (hs hm), fun n hn => kf n fun hm => hn (hf hm), hm, hp⟩

theorem Within.setR16 (h : Within s t e) (r : Reg16) (v : Word) : Within s (t.setR16 r v) e :=
  h.keeps (keeps_setR16 t r v)

theorem Within.setR8 (h : Within s t e) (r : Reg8) (v : Byte) : Within s (t.setR8 r v) e :=
  h.keeps (keeps_setR8 t r v)

theorem Within.setIp (h : Within s t e) (v : Word) : Within s (t.setIp v) e := h.keeps (keeps_setIp t v {})

theorem Within.setStatus (h : Within s t e) (x : Status) : Within s (t.setStatus x) e :=
  h.keeps (keeps_setStatus t x {})

theorem Within.read (h : Within s t e) {w : Nat} (l : Loc w) : Within s (t.read l).2 e := h.keeps (keeps_read t l {})

theorem Within.segRead8 (h : Within s t e) (x y : Word) : Within s (t.segRead8 x y).2 e :=
  h.keeps (keeps_segRead8 t x y {})

theorem Within.readFar (h : Within s t e) (ins : Ins) (m : MemOp) : Within s (t.readFar ins m).2 e :=
  h.keeps (keeps_readFar t ins m {})

theorem Within.pop16 (h : Within s t e) : Within s t.pop16.2 e := h.keeps (keeps_pop16 t)

theorem Within.setSReg (h : Within s t e) {g : SReg} (hg : g ∈ e.segs) (v : Word) : Within s (t.setSReg g v) e :=
  h.keeps (keeps_setSReg t g v) (by simpa using hg)

theorem Within.setFlags (h : Within s t e) {f : Flags} (hf : ∀ n, n ∉ e.flags → f.get n = t.flags.get n) :
    Within s (t.setFlags f) e :=
  h.keeps (keeps_setFlags t f (fp := { flags := e.flags }) hf)

/-- New flags that differ in status flags only. -/
theorem Within.setStatusFlags (h : Within s t e) {f : Flags}
    (hf : f.SameControl t.flags := by exact ⟨rfl, rfl, rfl⟩) (he : statusFlags ⊆ e.flags := by decide) :
    Within s (t.setFlags f) e :=
  h.setFlags fun _ hn => hf.get fun hm => hn (he hm)

/-- One status flag written. -/
theorem Within.putFlag (h : Within s t e) {n : StatusFlag} (hn : n.name ∈ e.flags) (b : Bool) :
    Within s (t.setFlags (t.flags.put n b)) e :=
  h.setFlags fun _ hm => Flags.get_put_ne _ n b fun heq => hm (heq ▸ hn)

theorem Within.drawFlags (h : Within s t e) {ns : List StatusFlag}
    (hn : ns.map StatusFlag.name ⊆ e.flags := by decide) :
    Within s (t.drawFlags ns) e :=
  h.keeps (keeps_drawFlags t ns) (hf := hn)

theorem Within.drawFlag (h : Within s t e) {n : StatusFlag} (hn : n.name ∈ e.flags := by decide) :
    Within s (t.drawFlag n) e :=
  h.keeps (keeps_drawFlag t n) (hf := by simpa using hn)

/-- Writing an operand where memory may be written: only a segment register must be allowed for. -/
theorem Within.write (h : Within s t e) (hm : e.mem = true) {w : Nat} {l : Loc w}
    (hl : (writeFootprint t.params.wordWrap l).segs ⊆ e.segs) (v : BitVec w) : Within s (t.write l v) e :=
  h.keeps (keeps_write t l v) hl (by cases l <;> simp [writeFootprint]) (by simp [hm])

theorem Within.push16 (h : Within s t e) (hm : e.mem = true) (v : Word) : Within s (t.push16 v) e :=
  h.keeps (keeps_push16 t v) (by simp [pushFootprint]) (by simp [pushFootprint]) (by simp [hm])

theorem Within.segWrite16 (h : Within s t e) (hm : e.mem = true) (x y v : Word) : Within s (t.segWrite16 x y v) e :=
  h.keeps (keeps_segWrite16 t x y v) (hm := by simp [hm])

/-- An interrupt entry writes CS, IF, TF and memory (R1131). -/
theorem Within.interruptEntry (h : Within s t e) (hs : .cs ∈ e.segs) (hf : [.IF, .TF] ⊆ e.flags) (hm : e.mem = true)
    (n : Byte) : Within s (t.interruptEntry n) e :=
  h.keeps (keeps_interruptEntry t n) (by simpa [entryFootprint] using hs) hf (by simp [hm])
    (by simp [State.interruptEntry])

/-- A divide error writes nothing but the status, or is an interrupt entry (R1121, R1122). -/
theorem Within.divideError (h : Within s t e) (hs : .cs ∈ e.segs) (hf : [.IF, .TF] ⊆ e.flags) (hm : e.mem = true)
    (cause : DivCause) (ins : Ins) : Within s (t.divideError cause ins) e := by
  unfold State.divideError
  cases t.params.divErrorMode
  · exact h.setStatus _
  · exact h.interruptEntry hs hf hm _

theorem Within.portOut8 (h : Within s t e) (hp : e.ports = true) (p : Word) (v : Byte) :
    Within s (t.portOut8 p v) e :=
  h.keeps (keeps_portOut8 t p v) (hp := by simp [hp])

theorem Within.portOut16 (h : Within s t e) (hp : e.ports = true) (p v : Word) : Within s (t.portOut16 p v) e :=
  (h.portOut8 hp p _).portOut8 hp _ _

theorem Within.portIn8 (h : Within s t e) (p : Word) : Within s (t.portIn8 p).2 e := h.keeps (keeps_portIn8 t p {})

theorem Within.portIn16 (h : Within s t e) (p : Word) : Within s (t.portIn16 p).2 e :=
  h.keeps (keeps_portIn16 t p {})

theorem Within.pushReturn (h : Within s t e) (hm : e.mem = true) : Within s t.pushReturn e :=
  (h.push16 hm _).push16 hm _

theorem Within.release (h : Within s t e) (f : RetForm) : Within s (t.release f) e := by
  cases f with
  | plain => exact h
  | imm v => exact h.setR16 .sp _

theorem Within.ite (c : Prop) [Decidable c] (h : Within s t e) (k : Within s u e) :
    Within s (if c then t else u) e := by
  split
  · exact h
  · exact k

/-- OF is written or drawn (R606). -/
theorem Within.shiftOverflow (h : Within s t e) (ho : .OF ∈ e.flags) (n : Byte) (overflow : Bool) :
    Within s (t.shiftOverflow n overflow) e :=
  .ite _ (h.putFlag (n := .OF) ho _) (h.drawFlag ho)

theorem Within.jumpIf (h : Within s t e) (c : Bool) (d : Byte) : Within s (t.jumpIf c d) e :=
  .ite _ (h.setIp _) h

theorem Within.repeatStep {iteration : State → State} (hi : ∀ u, Within u (iteration u) e) (h : Within s t e)
    (ins : Ins) (compares : Bool) : Within s (repeatStep ins compares iteration t) e := by
  unfold Machine.repeatStep
  split
  · exact h.trans (hi t)
  · have hu := (h.trans (hi t)).setR16 .cx ((iteration t).cx - 1)
    exact .ite _ h (.ite _ (hu.setIp _) hu)

end

/-! ### Where the operands of a form lie -/

section
variable (wrap : WordWrap) (ins : Ins) (s : State)

@[simp] theorem r8_segs (r : Reg8) : (writeFootprint wrap (.r8 r)).segs = [] := rfl

@[simp] theorem r16_segs (r : Reg16) : (writeFootprint wrap (.r16 r)).segs = [] := rfl

@[simp] theorem sreg_segs (g : SReg) : (writeFootprint wrap (.sreg g)).segs = [g] := rfl

@[simp] theorem ebLoc_segs (e : Rm Reg8) : (writeFootprint wrap (ebLoc ins s e)).segs = [] := by cases e <;> rfl

@[simp] theorem ewLoc_segs (e : Rm Reg16) : (writeFootprint wrap (ewLoc ins s e)).segs = [] := by cases e <;> rfl

@[simp] theorem memLoc8_segs (m : MemOp) : (writeFootprint wrap (memLoc8 ins s m)).segs = [] := rfl

@[simp] theorem memLoc16_segs (m : MemOp) : (writeFootprint wrap (memLoc16 ins s m)).segs = [] := rfl

@[simp] theorem aluPair_dst_segs (f : AluForm) : (writeFootprint wrap (aluPair ins s f).dst).segs = [] := by
  cases f <;> simp [aluPair]

@[simp] theorem xchgPair_dst_segs (f : XchgForm) : (writeFootprint wrap (xchgPair ins s f).dst).segs = [] := by
  cases f <;> simp [xchgPair]

@[simp] theorem xchgPair_src_segs (f : XchgForm) : (writeFootprint wrap (xchgPair ins s f).src).segs = [] := by
  cases f <;> rfl

@[simp] theorem incOperand_segs (f : IncForm) : (writeFootprint wrap (incOperand ins s f).loc).segs = [] := by
  cases f <;> simp [incOperand]

@[simp] theorem unOperand_segs (f : UnForm) : (writeFootprint wrap (unOperand ins s f).loc).segs = [] := by
  cases f <;> simp [unOperand]

@[simp] theorem shiftOperand_segs (f : ShiftForm) : (writeFootprint wrap (shiftOperand ins s f).loc).segs = [] := by
  cases f <;> simp [shiftOperand]

/-- The segment register that a MOV writes (R701). -/
def movSegs : MovForm → List SReg
  | .swew g _ => [g]
  | _ => []

@[simp] theorem movPair_dst_segs (f : MovForm) : (writeFootprint wrap (movPair ins s f).dst).segs = movSegs f := by
  cases f <;> simp [movPair, movSegs]

/-- The segment register that a POP writes (R711). -/
def popSegs : StackForm → List SReg
  | .sreg g => [g]
  | _ => []

@[simp] theorem stackLoc_segs (f : StackForm) : (writeFootprint wrap (stackLoc ins s f)).segs = popSegs f := by
  cases f <;> simp [stackLoc, popSegs]

end

/-! ### The table -/

/-- What the instructions of a class may write: the segment registers of R111, the rows of the table of R124, and
the destinations of the rules. The segment register that is a destination operand is not in it (`destSegs`). -/
def classScope : Class → Scope
  | .add | .adc | .sub | .sbb | .neg | .and | .or | .xor | .shl | .shr | .sar => { flags := statusFlags, mem := true }
  | .cmp | .test | .mul | .imul | .daa | .das | .aaa | .aas | .aad | .cmpsb | .cmpsw | .scasb | .scasw =>
    { flags := statusFlags }
  | .inc | .dec => { flags := incFlagNames, mem := true }
  | .div | .idiv | .aam => divideScope
  | .rol | .ror | .rcl | .rcr => { flags := [.CF, .OF], mem := true }
  | .not | .mov | .xchg | .push | .pop | .pushf | .movsb | .movsw | .stosb | .stosw | .call => { mem := true }
  | .lds => { segs := [.ds] }
  | .les => { segs := [.es] }
  | .sahf => { flags := [.CF, .PF, .AF, .ZF, .SF] }
  | .popf => { flags := statusFlags ++ [.TF, .IF, .DF] }
  | .iret => { segs := [.cs], flags := statusFlags ++ [.TF, .IF, .DF] }
  | .jmpf | .retf => { segs := [.cs] }
  | .callf => { segs := [.cs], mem := true }
  | .int | .int3 | .into => entryScope
  | .out => { ports := true }
  | .clc | .stc | .cmc => { flags := [.CF] }
  | .cld | .std => { flags := [.DF] }
  | .cli | .sti => { flags := [.IF] }
  | _ => {}

/-- The segment register that is an instruction's destination operand: of a MOV or a POP (R701, R711). -/
def destSegs : Instr → List SReg
  | .es j | .cs j | .ss j | .ds j | .rep j | .repne j | .lock j => destSegs j
  | .mov f => movSegs f
  | .pop f => popSegs f
  | _ => []

/-- What an instruction may write: what its class does, and its destination operand. -/
def scopeOf (i : Instr) : Scope := { classScope i.cls with segs := (classScope i.cls).segs ++ destSegs i }

/-! ### What each kind of rule writes -/

section
variable (ins : Ins) (s : State)

theorem aluStore_within {op : ∀ w : Nat, BitVec w → BitVec w → Flags → BitVec w × Flags} (f : AluForm)
    (hop : ∀ w a b x, (op w a b x).2.SameControl x) :
    Within s (aluStore op f ins s) { flags := statusFlags, mem := true } :=
  ((((Within.refl s _).read _).read _).setStatusFlags (hop _ _ _ _)).write rfl (by simp) _

theorem aluCompare_within {op : ∀ w : Nat, BitVec w → BitVec w → Flags → BitVec w × Flags} (f : AluForm)
    (hop : ∀ w a b x, (op w a b x).2.SameControl x) :
    Within s (aluCompare op f ins s) { flags := statusFlags } :=
  (((Within.refl s _).read _).read _).setStatusFlags (hop _ _ _ _)

theorem unaryStore_within {op : ∀ w : Nat, BitVec w → Flags → BitVec w × Flags} {o : Single} {fl : List FlagName}
    (ho : ∀ wrap, (writeFootprint wrap o.loc).segs = [])
    (hop : ∀ w a x n, n ∉ fl → (op w a x).2.get n = x.get n) :
    Within s (unaryStore op o s) { flags := fl, mem := true } :=
  (((Within.refl s _).read _).setFlags fun n => hop _ _ _ n).write rfl (by simp [ho]) _

theorem logicStore_within (op : ∀ w : Nat, BitVec w → BitVec w → BitVec w) (f : AluForm) :
    Within s (logicStore op f ins s) { flags := statusFlags, mem := true } :=
  (((((Within.refl s _).read _).read _).setStatusFlags (logicFlags_sameControl _ _)).drawFlag).write rfl (by simp) _

theorem testBody_within (f : TestForm) : Within s (testBody f ins s) { flags := statusFlags } :=
  ((((Within.refl s _).read _).read _).setStatusFlags (logicFlags_sameControl _ _)).drawFlag

theorem notBody_within (f : UnForm) : Within s (notBody f ins s) { mem := true } :=
  ((Within.refl s _).read _).write rfl (by simp) _

theorem productFlags_within {t : State} (h : Within s t { flags := statusFlags }) (high : Bool) :
    Within s (t.productFlags high) { flags := statusFlags } :=
  (h.setStatusFlags).drawFlags

theorem mulBody_within (f : UnForm) : Within s (mulBody f ins s) { flags := statusFlags } := by
  cases f with
  | eb e => exact productFlags_within s (((Within.refl s _).read _).setR16 _ _) _
  | ew e => exact productFlags_within s ((((Within.refl s _).read _).setR16 _ _).setR16 _ _) _

theorem imulBody_within (f : UnForm) : Within s (imulBody f ins s) { flags := statusFlags } := by
  cases f with
  | eb e => exact productFlags_within s (((Within.refl s _).read _).setR16 _ _) _
  | ew e => exact productFlags_within s ((((Within.refl s _).read _).setR16 _ _).setR16 _ _) _

theorem divideError_within {t : State} (h : Within s t divideScope) (cause : DivCause) :
    Within s (t.divideError cause ins) divideScope :=
  h.divideError (by decide) (by decide) rfl cause ins

theorem divBody_within (f : UnForm) : Within s (divBody f ins s) divideScope := by
  cases f with
  | eb e =>
    have hr := (Within.refl s divideScope).read (ebLoc ins s e)
    dsimp only [divBody]
    split
    · exact divideError_within ins s hr _
    · exact ((hr.setR8 _ _).setR8 _ _).drawFlags
  | ew e =>
    have hr := (Within.refl s divideScope).read (ewLoc ins s e)
    dsimp only [divBody]
    split
    · exact divideError_within ins s hr _
    · exact ((hr.setR16 _ _).setR16 _ _).drawFlags

theorem idivBody_within (f : UnForm) : Within s (idivBody f ins s) divideScope := by
  cases f with
  | eb e =>
    have hr := (Within.refl s divideScope).read (ebLoc ins s e)
    dsimp only [idivBody]
    split
    · exact divideError_within ins s hr _
    · exact ((hr.setR8 _ _).setR8 _ _).drawFlags
  | ew e =>
    have hr := (Within.refl s divideScope).read (ewLoc ins s e)
    dsimp only [idivBody]
    split
    · exact divideError_within ins s hr _
    · exact ((hr.setR16 _ _).setR16 _ _).drawFlags

theorem daaBody_within : Within s (daaBody ins s) { flags := statusFlags } :=
  (((Within.refl s _).setR8 _ _).setStatusFlags).drawFlag

theorem dasBody_within : Within s (dasBody ins s) { flags := statusFlags } :=
  (((Within.refl s _).setR8 _ _).setStatusFlags).drawFlag

theorem aaaBody_within : Within s (aaaBody ins s) { flags := statusFlags } :=
  ((Within.setR8 (.ite _ (((Within.refl s _).setR8 _ _).setR8 _ _) (.refl s _)) _ _).setStatusFlags).drawFlags

theorem aasBody_within : Within s (aasBody ins s) { flags := statusFlags } :=
  ((Within.setR8 (.ite _ (((Within.refl s _).setR8 _ _).setR8 _ _) (.refl s _)) _ _).setStatusFlags).drawFlags

theorem aamBody_within (n : Byte) : Within s (aamBody n ins s) divideScope :=
  .ite _ (divideError_within ins s (.refl s _) _)
    (((((Within.refl s _).setR8 _ _).setR8 _ _).setStatusFlags).drawFlags)

theorem aadBody_within (n : Byte) : Within s (aadBody n ins s) { flags := statusFlags } :=
  ((((Within.refl s _).setR8 _ _).setR8 _ _).setStatusFlags).drawFlags

theorem rotateBody_within (step : ∀ w : Nat, BitVec w → Bool → BitVec w × Bool)
    (overflow : ∀ w : Nat, BitVec w → BitVec w → Bool → Bool) (f : ShiftForm) :
    Within s (rotateBody step overflow f ins s) { flags := [.CF, .OF], mem := true } :=
  .ite _ (.refl s _)
    (((((Within.refl s _).read _).putFlag (n := .CF) (by decide) _).shiftOverflow (by decide) _ _).write rfl
      (by simp) _)

theorem shiftBody_within (step : ∀ w : Nat, BitVec w → Bool → BitVec w × Bool)
    (overflow : ∀ w : Nat, BitVec w → BitVec w → Bool → Bool) (f : ShiftForm) :
    Within s (shiftBody step overflow f ins s) { flags := statusFlags, mem := true } :=
  .ite _ (.refl s _)
    (((((((Within.refl s _).read _).putFlag (n := .CF) (by decide) _).shiftOverflow (by decide) _
      _).setStatusFlags).drawFlag).write rfl (by simp) _)

theorem movBody_within (f : MovForm) : Within s (movBody f ins s) { segs := movSegs f, mem := true } :=
  ((Within.refl s _).read _).write rfl (by simp) _

theorem xchgBody_within (f : XchgForm) : Within s (xchgBody f ins s) { mem := true } :=
  ((((Within.refl s _).read _).read _).write rfl (by simp) _).write rfl (by simp) _

theorem pushBody_within (f : StackForm) : Within s (pushBody f ins s) { mem := true } :=
  (((Within.refl s _).setR16 _ _).read _).segWrite16 rfl _ _ _

theorem popBody_within (f : StackForm) : Within s (popBody f ins s) { segs := popSegs f, mem := true } :=
  ((Within.refl s _).pop16).write rfl (by simp) _

/-! #### Strings -/

theorem movsOnce_within {w : Nat} {src dst : Loc w} (hd : ∀ wrap, (writeFootprint wrap dst).segs = []) (k : Word) :
    Within s (movsOnce src dst k s) { mem := true } :=
  ((((Within.refl s _).read _).write rfl (by simp [hd]) _).setR16 _ _).setR16 _ _

theorem cmpsOnce_within {w : Nat} (src dst : Loc w) (k : Word) :
    Within s (cmpsOnce src dst k s) { flags := statusFlags } :=
  (((((Within.refl s _).read _).read _).setStatusFlags (subFlags_sameControl _ _ _ _)).setR16 _ _).setR16 _ _

theorem scasOnce_within {w : Nat} (acc dst : Loc w) (k : Word) :
    Within s (scasOnce acc dst k s) { flags := statusFlags } :=
  ((((Within.refl s _).read _).read _).setStatusFlags (subFlags_sameControl _ _ _ _)).setR16 _ _

theorem stosOnce_within {w : Nat} {dst : Loc w} (acc : Loc w) (hd : ∀ wrap, (writeFootprint wrap dst).segs = [])
    (k : Word) : Within s (stosOnce dst acc k s) { mem := true } :=
  (((Within.refl s _).read _).write rfl (by simp [hd]) _).setR16 _ _

theorem lodsbBody_within : Within s (lodsbBody ins s) {} :=
  .repeatStep (fun u => (((Within.refl u _).read _).setR8 .al _).setR16 .si _) (.refl s _) _ _

theorem lodswBody_within : Within s (lodswBody ins s) {} :=
  .repeatStep (fun u => (((Within.refl u _).read _).setR16 .ax _).setR16 .si _) (.refl s _) _ _

/-! #### Control transfer -/

theorem interruptEntry_within (n : Byte) : Within s (s.interruptEntry n) entryScope :=
  (Within.refl s _).interruptEntry (by decide) (by decide) rfl n

theorem jmpBody_within (f : JmpForm) : Within s (jmpBody f ins s) {} := by
  cases f with
  | short d => exact (Within.refl s _).setIp _
  | near d => exact (Within.refl s _).setIp _
  | ind e => exact ((Within.refl s _).read _).setIp _

theorem jmpfBody_within (f : FarForm) : Within s (jmpfBody f ins s) { segs := [.cs] } := by
  cases f with
  | ptr seg off => exact ((Within.refl s _).setSReg (g := .cs) (by decide) _).setIp _
  | ind m => exact (((Within.refl s _).readFar _ _).setIp _).setSReg (by decide) _

theorem callBody_within (f : CallForm) : Within s (callBody f ins s) { mem := true } := by
  cases f with
  | near d => exact ((Within.refl s _).push16 rfl _).setIp _
  | ind e => exact (((Within.refl s _).read _).push16 rfl _).setIp _

theorem callfBody_within (f : FarForm) : Within s (callfBody f ins s) { segs := [.cs], mem := true } := by
  cases f with
  | ptr seg off => exact (((Within.refl s _).pushReturn rfl).setSReg (g := .cs) (by decide) _).setIp _
  | ind m =>
    exact ((((Within.refl s _).readFar _ _).pushReturn rfl).setSReg (g := .cs) (by decide) _).setIp _

theorem retBody_within (f : RetForm) : Within s (retBody f ins s) {} :=
  (((Within.refl s _).pop16).setIp _).release _

theorem retfBody_within (f : RetForm) : Within s (retfBody f ins s) { segs := [.cs] } :=
  (((((Within.refl s _).pop16).setIp _).pop16).setSReg (by decide) _).release _

theorem iretBody_within :
    Within s (iretBody ins s) { segs := [.cs], flags := statusFlags ++ [.TF, .IF, .DF] } :=
  (Within.refl s _).keeps (keeps_interruptReturn s) (hm := by simp [iretBody, State.interruptReturn])
    (hp := by simp [iretBody, State.interruptReturn])

/-! #### Data transfer, ports and flag control -/

theorem ldsBody_within (g : Reg16) (m : MemOp) : Within s (ldsBody g m ins s) { segs := [.ds] } :=
  (((Within.refl s _).readFar _ _).setR16 _ _).setSReg (by decide) _

theorem lesBody_within (g : Reg16) (m : MemOp) : Within s (lesBody g m ins s) { segs := [.es] } :=
  (((Within.refl s _).readFar _ _).setR16 _ _).setSReg (by decide) _

theorem sahfBody_within : Within s (sahfBody ins s) { flags := [.CF, .PF, .AF, .ZF, .SF] } := by
  refine (Within.refl s _).setFlags fun n hn => ?_
  cases n
  case TF | IF | DF | OF => rfl
  all_goals exact absurd (by decide) hn

theorem setDF_within (b : Bool) : Within s (s.setFlags { s.flags with DF := b }) { flags := [.DF] } := by
  refine (Within.refl s _).setFlags fun n hn => ?_
  cases n
  case DF => exact absurd (by decide) hn
  all_goals rfl

theorem setIF_within (b : Bool) : Within s (s.setFlags { s.flags with IF := b }) { flags := [.IF] } := by
  refine (Within.refl s _).setFlags fun n hn => ?_
  cases n
  case IF => exact absurd (by decide) hn
  all_goals rfl

theorem popfBody_within : Within s (popfBody ins s) { flags := statusFlags ++ [.TF, .IF, .DF] } := by
  refine ((Within.refl s _).pop16).setFlags fun n hn => ?_
  cases n
  all_goals exact absurd (by decide) hn

theorem inpBody_within (f : PortForm) : Within s (inpBody f ins s) {} := by
  cases f with
  | alib p | aldx => exact ((Within.refl s _).portIn8 _).setR8 _ _
  | axib p | axdx => exact ((Within.refl s _).portIn16 _).setR16 _ _

theorem outBody_within (f : PortForm) : Within s (outBody f ins s) { ports := true } := by
  cases f with
  | alib p | aldx => exact (Within.refl s _).portOut8 rfl _ _
  | axib p | axdx => exact (Within.refl s _).portOut16 rfl _ _

end

/-! ### Every execution stays within its scope -/

/-- The frame of an instruction adds nothing: ip and the status are in no scope (R403, R406). -/
theorem within_of_complete {ps : List Prefix} {i : Instr} {body : Ins → State → State} {s t : State} {e : Scope}
    (h : complete ps i body s = .next t) (hb : ∀ ins u, Within u (body ins u) e) : Within s t e := by
  rw [complete_eq, Host.Outcome.next.injEq] at h
  subst h
  exact .ite _ ((((Within.refl s e).setIp _).setStatus _).trans (hb _ _)) (((Within.refl s e).setIp _).setStatus _)

theorem within_of_rejected {ps : List Prefix} {why : DecodeReason} {bytes : List Byte} {s t : State} {e : Scope}
    (h : rejected ps why bytes s = .next t) : Within s t e := by
  cases h
  exact (Within.refl s e).setStatus _

theorem runIn_within (i : Instr) (ps : List Prefix) (s t : State) (h : runIn ps i s = .next t) :
    Within s t (scopeOf i) := by
  induction i generalizing ps with
  | es j ih | cs j ih | ss j ih | ds j ih | rep j ih | repne j ih => exact ih _ h
  | lock j ih =>
    rw [runIn] at h
    split at h
    · exact ih _ h
    · exact within_of_rejected h
  | invalid why bytes => exact within_of_rejected h
  | add f | adc f => exact within_of_complete h fun _ u => aluStore_within _ u f fun _ _ _ _ => addFlags_sameControl ..
  | sub f | sbb f => exact within_of_complete h fun _ u => aluStore_within _ u f fun _ _ _ _ => subFlags_sameControl ..
  | cmp f => exact within_of_complete h fun _ u => aluCompare_within _ u f fun _ _ _ _ => subFlags_sameControl ..
  | inc f => exact within_of_complete h fun _ u => unaryStore_within u (by simp) fun _ _ _ _ hn => incFlags_get _ _ hn
  | dec f => exact within_of_complete h fun _ u => unaryStore_within u (by simp) fun _ _ _ _ hn => decFlags_get _ _ hn
  | neg f =>
    exact within_of_complete h fun _ u =>
      unaryStore_within u (by simp) fun _ _ _ _ hn => (subFlags_sameControl ..).get hn
  | mul f => exact within_of_complete h fun _ u => mulBody_within _ u f
  | imul f => exact within_of_complete h fun _ u => imulBody_within _ u f
  | div f => exact within_of_complete h fun _ u => divBody_within _ u f
  | idiv f => exact within_of_complete h fun _ u => idivBody_within _ u f
  | daa => exact within_of_complete h daaBody_within
  | das => exact within_of_complete h dasBody_within
  | aaa => exact within_of_complete h aaaBody_within
  | aas => exact within_of_complete h aasBody_within
  | aam n => exact within_of_complete h fun _ u => aamBody_within _ u n
  | aad n => exact within_of_complete h fun _ u => aadBody_within _ u n
  | cbw | cwd | lahf => exact within_of_complete h fun _ u => (Within.refl u _).setR16 _ _
  | and f | or f | xor f => exact within_of_complete h fun _ u => logicStore_within _ u _ f
  | test f => exact within_of_complete h fun _ u => testBody_within _ u f
  | not f => exact within_of_complete h fun _ u => notBody_within _ u f
  | rol f | ror f | rcl f | rcr f => exact within_of_complete h fun _ u => rotateBody_within _ u _ _ f
  | shl f | shr f | sar f => exact within_of_complete h fun _ u => shiftBody_within _ u _ _ f
  | mov f => exact within_of_complete h fun _ u => movBody_within _ u f
  | xchg f => exact within_of_complete h fun _ u => xchgBody_within _ u f
  | nop | wait => exact within_of_complete h fun _ u => .refl u _
  | lea g m => exact within_of_complete h fun _ u => (Within.refl u _).setR16 _ _
  | lds g m => exact within_of_complete h fun _ u => ldsBody_within _ u g m
  | les g m => exact within_of_complete h fun _ u => lesBody_within _ u g m
  | xlat => exact within_of_complete h fun _ u => ((Within.refl u _).segRead8 _ _).setR8 _ _
  | sahf => exact within_of_complete h sahfBody_within
  | push f => exact within_of_complete h fun _ u => pushBody_within _ u f
  | pop f => exact within_of_complete h fun _ u => popBody_within _ u f
  | pushf => exact within_of_complete h fun _ u => (Within.refl u _).push16 rfl _
  | popf => exact within_of_complete h popfBody_within
  | movsb | movsw =>
    exact within_of_complete h fun _ u =>
      .repeatStep (fun v => movsOnce_within v (fun _ => rfl) _) (.refl u _) _ _
  | cmpsb | cmpsw =>
    exact within_of_complete h fun _ u => .repeatStep (fun v => cmpsOnce_within v _ _ _) (.refl u _) _ _
  | scasb | scasw =>
    exact within_of_complete h fun _ u => .repeatStep (fun v => scasOnce_within v _ _ _) (.refl u _) _ _
  | lodsb => exact within_of_complete h lodsbBody_within
  | lodsw => exact within_of_complete h lodswBody_within
  | stosb | stosw =>
    exact within_of_complete h fun _ u =>
      .repeatStep (fun v => stosOnce_within v _ (fun _ => rfl) _) (.refl u _) _ _
  | jmp f => exact within_of_complete h fun _ u => jmpBody_within _ u f
  | jmpf f => exact within_of_complete h fun _ u => jmpfBody_within _ u f
  | jo d | jno d | jb d | jnb d | jz d | jnz d | jbe d | ja d | js d | jns d | jp d | jnp d | jl d | jnl d | jle d
  | jg d | jcxz d => exact within_of_complete h fun _ u => (Within.refl u _).jumpIf _ _
  | loop d | loopz d | loopnz d =>
    exact within_of_complete h fun _ u => ((Within.refl u _).setR16 .cx _).jumpIf _ _
  | call f => exact within_of_complete h fun _ u => callBody_within _ u f
  | callf f => exact within_of_complete h fun _ u => callfBody_within _ u f
  | ret f => exact within_of_complete h fun _ u => retBody_within _ u f
  | retf f => exact within_of_complete h fun _ u => retfBody_within _ u f
  | int n | int3 => exact within_of_complete h fun _ u => interruptEntry_within u _
  | into => exact within_of_complete h fun _ u => .ite _ (interruptEntry_within u _) (.refl u _)
  | iret => exact within_of_complete h iretBody_within
  | inp f => exact within_of_complete h fun _ u => inpBody_within _ u f
  | out f => exact within_of_complete h fun _ u => outBody_within _ u f
  | clc | stc | cmc => exact within_of_complete h fun _ u => (Within.refl u _).putFlag (n := .CF) (by decide) _
  | cld | std => exact within_of_complete h fun _ u => setDF_within u _
  | cli | sti => exact within_of_complete h fun _ u => setIF_within u _
  | hlt | esc n reg e => exact within_of_complete h fun _ u => (Within.refl u _).setStatus _

theorem exec_within {i : Instr} {s t : State} (h : exec i s = .next t) : Within s t (scopeOf i) :=
  runIn_within i [] s t (exec_eq_runIn i s ▸ h)

/-! ### A part that changed is in the scope -/

section
variable {i : Instr} {s t : State} (h : exec i s = .next t)
include h

theorem mem_segs_of_exec (g : SReg) (hg : t.getSReg g ≠ s.getSReg g) :
    g ∈ (classScope i.cls).segs ∨ g ∈ destSegs i :=
  List.mem_append.mp (not_not.mp fun hn => hg ((exec_within h).1 g hn))

theorem mem_flags_of_exec (n : FlagName) (hn : t.flags.get n ≠ s.flags.get n) : n ∈ (classScope i.cls).flags :=
  not_not.mp fun hm => hn ((exec_within h).2.1 n hm)

theorem mem_of_exec (hm : t.mem ≠ s.mem) : (classScope i.cls).mem = true := by
  by_contra hn
  exact hm ((exec_within h).2.2.1 (eq_false_of_ne_true hn))

theorem ports_of_exec (hp : t.ports ≠ s.ports) : (classScope i.cls).ports = true := by
  by_contra hn
  exact hp ((exec_within h).2.2.2 (eq_false_of_ne_true hn))

end

/-- No encoding names CS as a destination operand (R333, R350). -/
theorem destSegs_of_wf {i : Instr} {p : Params} (hw : i.wf p = true) {g : SReg} (hg : g ∈ destSegs i) :
    g ≠ .cs ∧ i.cls ∈ [.mov, .pop] := by
  induction i with
  | es j ih | cs j ih | ss j ih | ds j ih | rep j ih | repne j ih => exact ih hw hg
  | lock j ih => exact ih (Bool.and_elim_right hw) hg
  | mov f =>
    cases f with
    | swew r e =>
      simp only [Instr.wf, MovForm.wf, Bool.and_eq_true, decide_eq_true_eq] at hw
      exact ⟨List.mem_singleton.mp hg ▸ hw.1, List.mem_cons_self⟩
    | _ => cases hg
  | pop f =>
    cases f with
    | sreg r =>
      simp only [Instr.wf, Bool.and_eq_true, decide_eq_true_eq] at hw
      exact ⟨fun hc => hw.2 (hc ▸ List.mem_singleton.mp hg ▸ rfl), List.mem_cons_of_mem _ List.mem_cons_self⟩
    | _ => cases hg
  | _ => cases hg

end Sys2Proof.Machine

open Sys2Proof Sys2Proof.Machine

/-- Settles O57: a changed segment register is a destination operand or of the class's own, and CS is no
destination operand of an instruction with an encoding. -/
theorem segmentRegisterWriters : Obligations.SegmentRegisterWriters := by
  unfold Obligations.SegmentRegisterWriters
  intro i s t hw h
  have hsegs := fun g hg => (mem_segs_of_exec h g hg).imp_right (destSegs_of_wf hw)
  generalize i.cls = k at hsegs ⊢
  refine ⟨?_ ∘ hsegs .cs, ?_ ∘ hsegs .es, ?_ ∘ hsegs .ss, ?_ ∘ hsegs .ds⟩
  all_goals
    clear hsegs
    cases k <;> decide

/-- Settles O58: a changed flag is in the row of the instruction's class. -/
theorem flagWriters : Obligations.FlagWriters := by
  unfold Obligations.FlagWriters
  refine ⟨fun s => ⟨rfl, rfl, rfl, rfl, rfl, rfl⟩, fun i s t h => ?_⟩
  have hflags := mem_flags_of_exec h
  generalize i.cls = k at hflags ⊢
  refine ⟨?_ ∘ hflags .DF, ?_ ∘ hflags .IF, ?_ ∘ hflags .TF, ?_ ∘ hflags .CF, ?_ ∘ hflags .OF,
    ?_ ∘ Or.imp (hflags .PF) (Or.imp (hflags .AF) (Or.imp (hflags .ZF) (hflags .SF)))⟩
  all_goals
    clear hflags
    cases k <;> decide

/-- Settles O59: the class of an instruction that changed memory or ports is one that may. -/
theorem memoryAndPortWriters : Obligations.MemoryAndPortWriters := by
  unfold Obligations.MemoryAndPortWriters
  intro i s t h
  have hmem := mem_of_exec h
  have hports := ports_of_exec h
  generalize i.cls = k at hmem hports ⊢
  refine ⟨?_ ∘ hports, ?_ ∘ hmem⟩
  all_goals
    clear hmem hports
    cases k <;> decide
end

section
/-! PROOFS. What every execution keeps: the memory and the ports stay well formed, and the bus events recorded so
far stand first. -/

namespace Sys2Proof.Machine

/-! ### Keeping the invariant and the events -/

/-- From `s` to `t` the invariant is kept, and bus events are only appended (R231). -/
def Extends (s t : State) : Prop := (s.inv = true → t.inv = true) ∧ s.events <+: t.events

theorem Extends.refl (s : State) : Extends s s := ⟨id, List.prefix_rfl⟩

theorem Extends.trans {s t u : State} (h : Extends s t) (k : Extends t u) : Extends s u :=
  ⟨k.1 ∘ h.1, h.2.trans k.2⟩

section
variable {s t u : State} (h : Extends s t)
include h

/-- One more operation that leaves memory, ports and events alone. -/
theorem Extends.quiet (hm : u.mem = t.mem) (hp : u.ports = t.ports) (hq : u.params = t.params)
    (he : u.events = t.events) : Extends s u :=
  h.trans ⟨fun hi => (State.inv_congr hm hp hq).trans hi, he ▸ List.prefix_rfl⟩

/-! #### Registers, flags and draws -/

theorem Extends.setR16 (r : Reg16) (v : Word) : Extends s (t.setR16 r v) :=
  h.quiet (t.setR16_mem r v) (t.setR16_ports r v) (t.setR16_params r v) (t.setR16_events r v)

theorem Extends.setR8 (r : Reg8) (v : Byte) : Extends s (t.setR8 r v) := h.setR16 _ _

theorem Extends.setSReg (g : SReg) (v : Word) : Extends s (t.setSReg g v) :=
  h.quiet (t.setSReg_mem g v) (t.setSReg_ports g v) (t.setSReg_params g v) (t.setSReg_events g v)

theorem Extends.setIp (v : Word) : Extends s (t.setIp v) := h.quiet rfl rfl rfl rfl

theorem Extends.setFlags (f : Flags) : Extends s (t.setFlags f) := h.quiet rfl rfl rfl rfl

theorem Extends.setStatus (x : Status) : Extends s (t.setStatus x) := h.quiet rfl rfl rfl rfl

theorem Extends.drawFlag (n : StatusFlag) : Extends s (t.drawFlag n) := h.quiet rfl rfl rfl rfl

theorem Extends.drawFlags (ns : List StatusFlag) : Extends s (t.drawFlags ns) :=
  h.quiet (t.drawFlags_mem ns) (t.drawFlags_ports ns) (t.drawFlags_params ns) (t.drawFlags_events ns)

/-! #### Memory -/

/-- A bus event is appended (R231). -/
theorem Extends.record (k : BusKind) (a : Addr) (v : Byte) : Extends s (t.record k a v) :=
  h.trans ⟨(State.inv_congr rfl rfl rfl).trans, List.prefix_append _ _⟩

theorem Extends.memRead (a : Addr) : Extends s (t.memRead a).2 := h.record _ _ _

theorem Extends.segRead8 (x y : Word) : Extends s (t.segRead8 x y).2 := h.memRead _

theorem Extends.segRead16 (x y : Word) : Extends s (t.segRead16 x y).2 := (h.memRead _).memRead _

theorem Extends.read {w : Nat} (l : Loc w) : Extends s (t.read l).2 := by
  cases l with
  | mem8 x y => exact h.segRead8 x y
  | mem16 x y => exact h.segRead16 x y
  | _ => exact h

theorem Extends.readFar (ins : Ins) (m : MemOp) : Extends s (t.readFar ins m).2 :=
  (h.segRead16 _ _).segRead16 _ _

theorem Extends.memWrite (a : Addr) (v : Byte) : Extends s (t.memWrite a v) :=
  h.trans ⟨State.inv_memWrite a v, List.prefix_append _ _⟩

theorem Extends.segWrite8 (x y : Word) (v : Byte) : Extends s (t.segWrite8 x y v) := h.memWrite _ _

theorem Extends.segWrite16 (x y v : Word) : Extends s (t.segWrite16 x y v) := (h.memWrite _ _).memWrite _ _

theorem Extends.write {w : Nat} (l : Loc w) (v : BitVec w) : Extends s (t.write l v) := by
  cases l with
  | r8 r => exact h.setR8 r v
  | r16 r => exact h.setR16 r v
  | sreg g => exact h.setSReg g v
  | imm8 x | imm16 x => exact h
  | mem8 x y => exact h.segWrite8 x y v
  | mem16 x y => exact h.segWrite16 x y v

/-! #### Ports -/

theorem Extends.portIn8 (p : Word) : Extends s (t.portIn8 p).2 :=
  h.quiet (t.portIn8_mem p) (t.portIn8_ports p) (t.portIn8_params p) (t.portIn8_events p)

theorem Extends.portIn16 (p : Word) : Extends s (t.portIn16 p).2 := (h.portIn8 _).portIn8 _

theorem Extends.portOut8 (p : Word) (v : Byte) : Extends s (t.portOut8 p v) :=
  h.trans ⟨State.inv_portOut8 p v, List.prefix_rfl⟩

theorem Extends.portOut16 (p v : Word) : Extends s (t.portOut16 p v) := (h.portOut8 _ _).portOut8 _ _

/-! #### The stack and interrupts -/

theorem Extends.push16 (v : Word) : Extends s (t.push16 v) := (h.setR16 _ _).segWrite16 _ _ _

theorem Extends.pop16 : Extends s t.pop16.2 := (h.segRead16 _ _).setR16 _ _

theorem Extends.pushReturn : Extends s t.pushReturn := (h.push16 _).push16 _

theorem Extends.interruptEntry (n : Byte) : Extends s (t.interruptEntry n) := by
  unfold State.interruptEntry
  extract_lets a flags b c d off newIp newCs
  have hb : Extends s b := (h.push16 _).setFlags _
  have hd : Extends s d := (hb.push16 _).push16 _
  have hnew : Extends s newCs.2 := (hd.segRead16 _ _).segRead16 _ _
  exact (hnew.setIp newIp.1).setSReg .cs newCs.1

theorem Extends.interruptReturn : Extends s t.interruptReturn :=
  ((((h.pop16.setIp _).pop16).setSReg _ _).pop16).setFlags _

/-- A divide error writes the status, or is an interrupt entry (R1121, R1122). -/
theorem Extends.divideError (cause : DivCause) (ins : Ins) : Extends s (t.divideError cause ins) := by
  unfold State.divideError
  split
  · exact h.setStatus _
  · exact h.interruptEntry _

/-! #### Branches -/

theorem Extends.ite (c : Prop) [Decidable c] (k : Extends s u) : Extends s (if c then t else u) := by
  split
  · exact h
  · exact k

theorem Extends.release (f : RetForm) : Extends s (t.release f) := by
  cases f with
  | plain => exact h
  | imm v => exact h.setR16 _ _

theorem Extends.shiftOverflow (n : Byte) (overflow : Bool) : Extends s (t.shiftOverflow n overflow) :=
  .ite (h.setFlags _) _ (h.drawFlag _)

theorem Extends.productFlags (high : Bool) : Extends s (t.productFlags high) := (h.setFlags _).drawFlags _

theorem Extends.logicResult {w : Nat} (r : BitVec w) : Extends s (t.logicResult r) :=
  (h.setFlags _).drawFlag _

theorem Extends.jumpIf (c : Bool) (d : Byte) : Extends s (t.jumpIf c d) := .ite (h.setIp _) _ h

/-- The repeat driver adds to its iteration CX and ip (R801). -/
theorem Extends.repeatStep {iteration : State → State} (hi : ∀ v, Extends v (iteration v)) (ins : Ins)
    (compares : Bool) : Extends s (repeatStep ins compares iteration t) := by
  have hone := h.trans (hi t)
  unfold Machine.repeatStep
  split
  · exact hone
  · exact .ite h _ (.ite ((hone.setR16 _ _).setIp _) _ (hone.setR16 _ _))

end

/-! ### Every rule -/

section
variable (ins : Ins) (s : State)

theorem aluStore_extends (op : ∀ w : Nat, BitVec w → BitVec w → Flags → BitVec w × Flags) (f : AluForm) :
    Extends s (aluStore op f ins s) :=
  ((((Extends.refl s).read _).read _).setFlags _).write _ _

theorem aluCompare_extends (op : ∀ w : Nat, BitVec w → BitVec w → Flags → BitVec w × Flags) (f : AluForm) :
    Extends s (aluCompare op f ins s) :=
  (((Extends.refl s).read _).read _).setFlags _

theorem unaryStore_extends (op : ∀ w : Nat, BitVec w → Flags → BitVec w × Flags) (o : Single) :
    Extends s (unaryStore op o s) :=
  (((Extends.refl s).read _).setFlags _).write _ _

theorem logicStore_extends (op : ∀ w : Nat, BitVec w → BitVec w → BitVec w) (f : AluForm) :
    Extends s (logicStore op f ins s) :=
  ((((Extends.refl s).read _).read _).logicResult _).write _ _

theorem divBody_extends (f : UnForm) : Extends s (divBody f ins s) := by
  cases f with
  | eb e =>
    have hr := (Extends.refl s).read (ebLoc ins s e)
    dsimp only [divBody]
    split
    · exact hr.divideError _ _
    · exact ((hr.setR8 _ _).setR8 _ _).drawFlags _
  | ew e =>
    have hr := (Extends.refl s).read (ewLoc ins s e)
    dsimp only [divBody]
    split
    · exact hr.divideError _ _
    · exact ((hr.setR16 _ _).setR16 _ _).drawFlags _

theorem idivBody_extends (f : UnForm) : Extends s (idivBody f ins s) := by
  cases f with
  | eb e =>
    have hr := (Extends.refl s).read (ebLoc ins s e)
    dsimp only [idivBody]
    split
    · exact hr.divideError _ _
    · exact ((hr.setR8 _ _).setR8 _ _).drawFlags _
  | ew e =>
    have hr := (Extends.refl s).read (ewLoc ins s e)
    dsimp only [idivBody]
    split
    · exact hr.divideError _ _
    · exact ((hr.setR16 _ _).setR16 _ _).drawFlags _

/-- DAA and DAS set AL and the flags and draw OF; only AL's new value differs (R513, R514). -/
theorem decimalAdjust_extends (v : Byte) (f : Flags) :
    Extends s (((s.setR8 .al v).setFlags f).drawFlag .OF) :=
  (((Extends.refl s).setR8 _ _).setFlags _).drawFlag _

theorem rotateBody_extends (step : ∀ w : Nat, BitVec w → Bool → BitVec w × Bool)
    (overflow : ∀ w : Nat, BitVec w → BitVec w → Bool → Bool) (f : ShiftForm) :
    Extends s (rotateBody step overflow f ins s) :=
  .ite (.refl s) _ (((((Extends.refl s).read _).setFlags _).shiftOverflow _ _).write _ _)

theorem shiftBody_extends (step : ∀ w : Nat, BitVec w → Bool → BitVec w × Bool)
    (overflow : ∀ w : Nat, BitVec w → BitVec w → Bool → Bool) (f : ShiftForm) :
    Extends s (shiftBody step overflow f ins s) :=
  .ite (.refl s) _
    (((((((Extends.refl s).read _).setFlags _).shiftOverflow _ _).setFlags _).drawFlag _).write _ _)

theorem movsOnce_extends {w : Nat} (src dst : Loc w) (k : Word) : Extends s (movsOnce src dst k s) :=
  ((((Extends.refl s).read _).write _ _).setR16 _ _).setR16 _ _

theorem cmpsOnce_extends {w : Nat} (src dst : Loc w) (k : Word) : Extends s (cmpsOnce src dst k s) :=
  (((((Extends.refl s).read _).read _).setFlags _).setR16 _ _).setR16 _ _

theorem scasOnce_extends {w : Nat} (acc dst : Loc w) (k : Word) : Extends s (scasOnce acc dst k s) :=
  ((((Extends.refl s).read _).read _).setFlags _).setR16 _ _

theorem lodsOnce_extends {w : Nat} (acc src : Loc w) (k : Word) : Extends s (lodsOnce acc src k s) :=
  (((Extends.refl s).read _).write _ _).setR16 _ _

theorem stosOnce_extends {w : Nat} (dst acc : Loc w) (k : Word) : Extends s (stosOnce dst acc k s) :=
  (((Extends.refl s).read _).write _ _).setR16 _ _

theorem jmpBody_extends (f : JmpForm) : Extends s (jmpBody f ins s) := by
  cases f with
  | short d | near d => exact (Extends.refl s).setIp _
  | ind e => exact ((Extends.refl s).read _).setIp _

theorem jmpfBody_extends (f : FarForm) : Extends s (jmpfBody f ins s) := by
  cases f with
  | ptr seg off => exact ((Extends.refl s).setSReg .cs _).setIp _
  | ind m => exact (((Extends.refl s).readFar _ _).setIp _).setSReg _ _

theorem callBody_extends (f : CallForm) : Extends s (callBody f ins s) := by
  cases f with
  | near d => exact ((Extends.refl s).push16 _).setIp _
  | ind e => exact (((Extends.refl s).read _).push16 _).setIp _

theorem callfBody_extends (f : FarForm) : Extends s (callfBody f ins s) := by
  cases f with
  | ptr seg off => exact ((Extends.refl s).pushReturn.setSReg .cs _).setIp _
  | ind m => exact (((Extends.refl s).readFar _ _).pushReturn.setSReg .cs _).setIp _

theorem inpBody_extends (f : PortForm) : Extends s (inpBody f ins s) := by
  cases f with
  | alib p | aldx => exact ((Extends.refl s).portIn8 _).setR8 _ _
  | axib p | axdx => exact ((Extends.refl s).portIn16 _).setR16 _ _

theorem outBody_extends (f : PortForm) : Extends s (outBody f ins s) := by
  cases f with
  | alib p | aldx => exact (Extends.refl s).portOut8 _ _
  | axib p | axdx => exact (Extends.refl s).portOut16 _ _

end

/-! ### Every execution -/

theorem extends_of_complete {ps : List Prefix} {i : Instr} {body : Ins → State → State} {s t : State}
    (h : complete ps i body s = .next t) (hb : ∀ ins u, Extends u (body ins u)) : Extends s t := by
  rw [complete_eq, Host.Outcome.next.injEq] at h
  subst h
  exact .ite ((((Extends.refl s).setIp _).setStatus _).trans (hb _ _)) _ (((Extends.refl s).setIp _).setStatus _)

theorem extends_of_rejected {ps : List Prefix} {why : DecodeReason} {bytes : List Byte} {s t : State}
    (h : rejected ps why bytes s = .next t) : Extends s t := by
  cases h
  exact (Extends.refl s).setStatus _

theorem runIn_extends (i : Instr) (ps : List Prefix) (s t : State) (h : runIn ps i s = .next t) : Extends s t := by
  induction i generalizing ps with
  | es j ih | cs j ih | ss j ih | ds j ih | rep j ih | repne j ih => exact ih _ h
  | lock j ih =>
    rw [runIn] at h
    split at h
    · exact ih _ h
    · exact extends_of_rejected h
  | invalid why bytes => exact extends_of_rejected h
  | add f | adc f | sub f | sbb f => exact extends_of_complete h fun _ u => aluStore_extends _ u _ f
  | cmp f => exact extends_of_complete h fun _ u => aluCompare_extends _ u _ f
  | inc f | dec f | neg f => exact extends_of_complete h fun _ u => unaryStore_extends u _ _
  | mul f | imul f =>
    cases f with
    | eb e =>
      exact extends_of_complete h fun _ u => (((Extends.refl u).read _).setR16 _ _).productFlags _
    | ew e =>
      exact extends_of_complete h fun _ u => ((((Extends.refl u).read _).setR16 _ _).setR16 _ _).productFlags _
  | div f => exact extends_of_complete h fun _ u => divBody_extends _ u f
  | idiv f => exact extends_of_complete h fun _ u => idivBody_extends _ u f
  | daa | das => exact extends_of_complete h fun _ u => decimalAdjust_extends u _ _
  | aaa | aas =>
    exact extends_of_complete h fun _ u =>
      ((Extends.setR8 (.ite (((Extends.refl u).setR8 _ _).setR8 _ _) _ (.refl u)) _ _).setFlags _).drawFlags _
  | aam n =>
    exact extends_of_complete h fun _ u =>
      .ite ((Extends.refl u).divideError _ _) _ (((((Extends.refl u).setR8 _ _).setR8 _ _).setFlags _).drawFlags _)
  | aad n =>
    exact extends_of_complete h fun _ u => ((((Extends.refl u).setR8 _ _).setR8 _ _).setFlags _).drawFlags _
  | cbw | cwd | lea g m | lahf => exact extends_of_complete h fun _ u => (Extends.refl u).setR16 _ _
  | and f | or f | xor f => exact extends_of_complete h fun _ u => logicStore_extends _ u _ f
  | test f => exact extends_of_complete h fun _ u => (((Extends.refl u).read _).read _).logicResult _
  | not f => exact extends_of_complete h fun _ u => ((Extends.refl u).read _).write _ _
  | rol f | ror f | rcl f | rcr f => exact extends_of_complete h fun _ u => rotateBody_extends _ u _ _ f
  | shl f | shr f | sar f => exact extends_of_complete h fun _ u => shiftBody_extends _ u _ _ f
  | mov f => exact extends_of_complete h fun _ u => ((Extends.refl u).read _).write _ _
  | xchg f => exact extends_of_complete h fun _ u => ((((Extends.refl u).read _).read _).write _ _).write _ _
  | nop | wait => exact extends_of_complete h fun _ u => .refl u
  | lds g m | les g m =>
    exact extends_of_complete h fun _ u => (((Extends.refl u).readFar _ _).setR16 _ _).setSReg _ _
  | xlat => exact extends_of_complete h fun _ u => ((Extends.refl u).segRead8 _ _).setR8 _ _
  | push f => exact extends_of_complete h fun _ u => (((Extends.refl u).setR16 _ _).read _).segWrite16 _ _ _
  | pop f => exact extends_of_complete h fun _ u => (Extends.refl u).pop16.write _ _
  | pushf => exact extends_of_complete h fun _ u => (Extends.refl u).push16 _
  | popf => exact extends_of_complete h fun _ u => (Extends.refl u).pop16.setFlags _
  | movsb | movsw =>
    exact extends_of_complete h fun _ u => (Extends.refl u).repeatStep (fun v => movsOnce_extends v _ _ _) _ _
  | cmpsb | cmpsw =>
    exact extends_of_complete h fun _ u => (Extends.refl u).repeatStep (fun v => cmpsOnce_extends v _ _ _) _ _
  | scasb | scasw =>
    exact extends_of_complete h fun _ u => (Extends.refl u).repeatStep (fun v => scasOnce_extends v _ _ _) _ _
  | lodsb | lodsw =>
    exact extends_of_complete h fun _ u => (Extends.refl u).repeatStep (fun v => lodsOnce_extends v _ _ _) _ _
  | stosb | stosw =>
    exact extends_of_complete h fun _ u => (Extends.refl u).repeatStep (fun v => stosOnce_extends v _ _ _) _ _
  | jmp f => exact extends_of_complete h fun _ u => jmpBody_extends _ u f
  | jmpf f => exact extends_of_complete h fun _ u => jmpfBody_extends _ u f
  | jo d | jno d | jb d | jnb d | jz d | jnz d | jbe d | ja d | js d | jns d | jp d | jnp d | jl d | jnl d | jle d
  | jg d | jcxz d => exact extends_of_complete h fun _ u => (Extends.refl u).jumpIf _ _
  | loop d | loopz d | loopnz d =>
    exact extends_of_complete h fun _ u => ((Extends.refl u).setR16 .cx _).jumpIf _ _
  | call f => exact extends_of_complete h fun _ u => callBody_extends _ u f
  | callf f => exact extends_of_complete h fun _ u => callfBody_extends _ u f
  | ret f => exact extends_of_complete h fun _ u => ((Extends.refl u).pop16.setIp _).release _
  | retf f =>
    exact extends_of_complete h fun _ u => (((Extends.refl u).pop16.setIp _).pop16.setSReg _ _).release _
  | int n | int3 => exact extends_of_complete h fun _ u => (Extends.refl u).interruptEntry _
  | into => exact extends_of_complete h fun _ u => .ite ((Extends.refl u).interruptEntry _) _ (.refl u)
  | iret => exact extends_of_complete h fun _ u => (Extends.refl u).interruptReturn
  | inp f => exact extends_of_complete h fun _ u => inpBody_extends _ u f
  | out f => exact extends_of_complete h fun _ u => outBody_extends _ u f
  | sahf | clc | stc | cmc | cld | std | cli | sti =>
    exact extends_of_complete h fun _ u => (Extends.refl u).setFlags _
  | hlt | esc n reg e => exact extends_of_complete h fun _ u => (Extends.refl u).setStatus _

theorem step_extends {s t : State} (h : step s = .next t) : Extends s.fetched t :=
  runIn_extends s.current [] s.fetched t (exec_eq_runIn s.current s.fetched ▸ h)

end Sys2Proof.Machine

open Sys2Proof Sys2Proof.Machine

/-- Settles O11: fetching changes neither memory nor ports, and every execution keeps the invariant. -/
theorem stepKeepsInvariant : Obligations.StepKeepsInvariant :=
  fun _ _ hs h => (step_extends h).1 hs

/-- Settles O15: the events of the step start as the decode-phase events, and execution only appends. -/
theorem decodeEventsComeFirst : Obligations.DecodeEventsComeFirst :=
  fun _ _ h => (step_extends h).2.imp fun _ => Eq.symm

/-- Settles O12: both byte lists are empty. -/
theorem resetMeetsInvariant : Obligations.ResetMeetsInvariant := rfl
end

section
/-! PROOFS. The outputs of the last step, accesses to memory in both widths and outside the array, and the addresses
and operands of every form. -/

namespace Sys2Proof.Machine

/-! ### The status before a step is overwritten -/

/-- Every outcome writes the status, and no rule reads it (R1100). -/
theorem runIn_setStatus (i : Instr) (ps : List Prefix) (s : State) (x : Status) :
    runIn ps i (s.setStatus x) = runIn ps i s := by
  induction i generalizing ps with
  | es j ih | cs j ih | ss j ih | ds j ih | rep j ih | repne j ih => exact ih _
  | lock j ih => exact ite_congr rfl (fun _ => ih _) fun _ => rfl
  | _ => rfl

/-! ### Bytes of memory after a store -/

theorem State.memByte_memWrite_same (s : State) {a : Addr} (v : Byte) (h : s.holds a) :
    (s.memWrite a v).memByte a = v := by
  rw [State.memByte_memWrite]
  exact if_pos ⟨rfl, h⟩

theorem State.memByte_memWrite_ne (s : State) {a b : Addr} (v : Byte) (h : b ≠ a) :
    (s.memWrite a v).memByte b = s.memByte b := by
  rw [State.memByte_memWrite]
  exact if_neg fun hab => h hab.1

/-- After two byte stores at the addresses of a word each of the two reads as stored (R214). -/
theorem State.memByte_memWrite_memWrite (s : State) {seg off : Word} (lo hi : Byte) (h : s.holdsWord seg off) :
    let t := (s.memWrite (flat seg off) lo).memWrite (second s.params.wordWrap seg off) hi
    t.memByte (flat seg off) = lo ∧ t.memByte (second s.params.wordWrap seg off) = hi := by
  obtain ⟨hlo, hhi⟩ := h
  intro t
  constructor
  · rw [State.memByte_memWrite_ne _ _ (second_ne _ seg off).symm, State.memByte_memWrite_same s lo hlo]
  · exact State.memByte_memWrite_same _ hi hhi

/-- No store reaches an address outside the array (R205). -/
theorem State.poke_of_not_holds (s : State) {a : Addr} (v : Byte) (h : ¬ s.holds a) : s.poke a v = s := by
  rw [State.poke, if_neg (c := a.toNat < s.params.memSize) h]

theorem State.memByte_of_not_holds (s : State) {a : Addr} (h : ¬ s.holds a) : s.memByte a = 0#8 := if_neg h

/-! ### The segment of a memory operand -/

/-- Without an override the segment of a combination does not depend on its displacement (R421). -/
theorem segOf_disp8 (p : Params) {ins : Ins} (b : Base) (d : Byte) (h : ins.seg = none) :
    segOf p ins (.disp8 b d) = if b ∈ [Base.bpsi, .bpdi, .bp] then bpSegment p else .ds := by
  rw [segOf, h]
  cases b <;> rfl

end Sys2Proof.Machine

open Sys2Proof Sys2Proof.Machine

/-- Settles O10: fetching begins events and device outputs anew, and execution overwrites the status. -/
theorem outputsDoNotMatter : Obligations.OutputsDoNotMatter := by
  unfold Obligations.OutputsDoNotMatter
  intro s x es ds
  have hfetched : State.fetched { s with status := x, events := es, devOut := ds } = s.fetched.setStatus x := rfl
  have hcurrent : State.current { s with status := x, events := es, devOut := ds } = s.current := rfl
  rw [step, step, hfetched, hcurrent, exec_eq_runIn, exec_eq_runIn, runIn_setStatus]

/-- Settles O19: a word write is the two byte writes, low byte first (R211, R214). -/
theorem mixedWidthAccesses : Obligations.MixedWidthAccesses := by
  unfold Obligations.MixedWidthAccesses
  intro s seg off v h
  obtain ⟨hlo, hhi⟩ := s.memByte_memWrite_memWrite (loByte v) (hiByte v) h
  refine ⟨⟨hlo, hhi, s.segRead16_segWrite16 seg off v h, fun a ha => ?_⟩, fun lo hi => ?_⟩
  · simp only [wordAddrs, List.mem_cons, List.not_mem_nil, or_false, not_or] at ha
    exact s.memByte_segWrite16_ne seg off v ha.1 ha.2
  · obtain ⟨hlo, hhi⟩ := s.memByte_memWrite_memWrite lo hi h
    rw [State.word, State.segRead16_fst, hlo]
    simp only [State.memWrite_params]
    rw [hhi, wordOf]

/-- Settles O20: the byte read is 0x00, and the array is not written (R205). -/
theorem outOfRangeAccesses : Obligations.OutOfRangeAccesses := by
  unfold Obligations.OutOfRangeAccesses
  intro s a v h
  constructor
  · rw [State.memRead, s.memByte_of_not_holds h, State.record]
  · rw [State.memWrite, s.poke_of_not_holds v h, State.record]

/-- Settles O18: every equation is one case of a definition, but for the override and the default segment. -/
theorem addressesAndSegments : Obligations.AddressesAndSegments := by
  unfold Obligations.AddressesAndSegments
  refine ⟨flat_toNat, fun s => ⟨rfl, rfl, rfl, rfl, rfl, rfl, rfl, rfl⟩, fun s b d w => ⟨rfl, rfl, rfl, rfl⟩,
    fun p ins m g h => ?_, fun p ins b d w h => ⟨?_, rfl, rfl, segOf_disp8 p b d h⟩, fun seg off => ⟨rfl, rfl⟩,
    fun ins s => ?_⟩
  · rw [segOf, h, Option.getD_some]
  · rw [segOf, h, Option.getD_none, defaultSegment]
  · refine ⟨rfl, fun m => rfl, fun r => rfl, fun r => rfl, fun m => ⟨rfl, rfl⟩,
      fun e g => ⟨rfl, rfl, rfl, rfl, rfl, rfl⟩, fun e g => ⟨rfl, rfl, rfl, rfl, rfl, rfl⟩, fun e g => ⟨rfl, rfl⟩,
      fun v => ⟨rfl, rfl⟩, fun v => ⟨rfl, rfl⟩, fun e v => ⟨rfl, rfl, rfl, rfl⟩, fun e v => ⟨rfl, rfl, rfl⟩,
      fun e v => rfl, fun off => ⟨rfl, rfl, rfl, rfl⟩, fun r v => rfl, fun r v => rfl, fun r => ⟨rfl, rfl, rfl⟩,
      fun e => ⟨rfl, rfl, rfl, rfl⟩, fun e => ⟨rfl, rfl, rfl, rfl, rfl⟩, fun g => rfl⟩
end

section
/-! PROOFS. The decode-phase events (R233): how many prefixes decoding takes, how many bytes it reads, and the
positions fetched. `decodeWithin_cases` says once what decoding gives. -/

namespace Sys2Proof.Machine

/-! ### The instruction after the prefixes -/

/-- The result is no prefixed instruction. -/
def unprefixed : DecodeResult → Bool
  | .ok i => !isPrefix i
  | .error _ _ => true

/-- What an opcode with a ModRM byte decodes to: no prefixed instruction, after reading the opcode and that byte. -/
def FromModrm (r : DecodeResult) : Prop := unprefixed r = true ∧ 2 ≤ r.read

theorem aluInstr_fromModrm (op : Nat) {f : AluForm} (h : 2 ≤ f.len) : FromModrm (.ok (aluInstr op f)) := by
  unfold aluInstr
  split <;> exact ⟨rfl, h⟩

theorem shiftInstr_fromModrm (c : Code) {f : ShiftForm} (h : 2 ≤ f.len) : FromModrm (shiftInstr c f) := by
  unfold shiftInstr
  split
  case h_7 => exact ⟨rfl, le_rfl⟩
  all_goals exact ⟨rfl, h⟩

theorem group3_fromModrm (c : Code) {t : TestForm} {f : UnForm} (ht : 2 ≤ t.len) (hf : 2 ≤ f.len) :
    FromModrm (group3 c t f) := by
  unfold group3
  split
  case h_1 => exact ⟨rfl, ht⟩
  case h_2 => exact ⟨rfl, le_rfl⟩
  all_goals exact ⟨rfl, hf⟩

theorem group0_fromModrm (c : Code) {i : Instr} (h : FromModrm (.ok i)) : FromModrm (group0 c i) := by
  unfold group0
  split
  · exact h
  · exact ⟨rfl, le_rfl⟩

theorem memOnly_fromModrm (c : Code) {k : MemOp → Instr} (h : ∀ m, FromModrm (.ok (k m))) :
    FromModrm (memOnly c k) := by
  unfold memOnly
  split
  · exact ⟨rfl, le_rfl⟩
  · exact h _

theorem group4_fromModrm (c : Code) : FromModrm (group4 c) := by
  unfold group4
  split
  case h_3 => exact ⟨rfl, le_rfl⟩
  all_goals exact ⟨rfl, Nat.le_add_right 2 _⟩

theorem group5_fromModrm (c : Code) : FromModrm (group5 c) := by
  unfold group5
  split
  case h_4 | h_6 => exact memOnly_fromModrm c fun m => ⟨rfl, Nat.le_add_right 2 _⟩
  case h_8 => exact ⟨rfl, le_rfl⟩
  all_goals exact ⟨rfl, Nat.le_add_right 2 _⟩

theorem opcodeRow8_unprefixed (lo : Nat) (c : Code) : unprefixed (opcodeRow8 lo c) = true := by
  unfold opcodeRow8
  split
  case h_1 | h_2 | h_3 | h_4 => exact (aluInstr_fromModrm _ (Nat.le_add_right_of_le (by decide))).1
  case h_13 => unfold movFromSreg; split <;> rfl
  case h_14 => exact (memOnly_fromModrm c fun m => ⟨rfl, Nat.le_add_right 2 _⟩).1
  case h_15 => unfold movToSreg; split <;> rfl
  case h_16 => exact (group0_fromModrm c ⟨rfl, Nat.le_add_right 2 _⟩).1
  all_goals rfl

theorem opcodeRowC_unprefixed (lo : Nat) (c : Code) : unprefixed (opcodeRowC lo c) = true := by
  unfold opcodeRowC
  split
  case h_5 | h_6 => exact (memOnly_fromModrm c fun m => ⟨rfl, Nat.le_add_right 2 _⟩).1
  case h_7 | h_8 => unfold group0; split <;> rfl
  all_goals rfl

theorem opcodeRowD_unprefixed (lo : Nat) (c : Code) : unprefixed (opcodeRowD lo c) = true := by
  unfold opcodeRowD
  split
  case h_1 | h_2 | h_3 | h_4 => exact (shiftInstr_fromModrm c (Nat.le_add_right 2 _)).1
  all_goals rfl

theorem opcodeRowF_unprefixed (lo : Nat) (c : Code) : unprefixed (opcodeRowF lo c) = true := by
  unfold opcodeRowF
  split
  case h_7 | h_8 => unfold group3; split <;> rfl
  case h_15 => exact (group4_fromModrm c).1
  case h_16 => exact (group5_fromModrm c).1
  all_goals rfl

/-- The opcode map holds no prefixes: the loop before it has taken them (R346). -/
theorem decodeBody_unprefixed (c : Code) : unprefixed (decodeBody c) = true := by
  unfold decodeBody
  dsimp only
  split
  case h_1 => unfold opcodeRow0; split <;> rfl
  case h_2 => unfold opcodeRow1; split <;> rfl
  case h_3 => unfold opcodeRow2; split <;> rfl
  case h_4 => unfold opcodeRow3; split <;> rfl
  case h_5 => unfold opcodeRow4; split <;> rfl
  case h_6 => unfold opcodeRow5; split <;> rfl
  case h_7 => rfl
  case h_8 => unfold opcodeRow7; split <;> rfl
  case h_9 => exact opcodeRow8_unprefixed _ c
  case h_10 => unfold opcodeRow9; split <;> rfl
  case h_11 => unfold opcodeRowA; split <;> rfl
  case h_12 => unfold opcodeRowB; split <;> rfl
  case h_13 => exact opcodeRowC_unprefixed _ c
  case h_14 => exact opcodeRowD_unprefixed _ c
  case h_15 => unfold opcodeRowE; split <;> rfl
  case h_16 => exact opcodeRowF_unprefixed _ c

theorem isPrefix_of_decodeBody {c : Code} {i : Instr} (h : decodeBody c = .ok i) : isPrefix i = false := by
  have hbody := decodeBody_unprefixed c
  rw [h] at hbody
  exact (Bool.not_eq_true' _).mp hbody

/-- Decoding reads the ModRM byte of a group opcode, whatever it then finds (R322, R346). -/
theorem fromModrm_of_group {c : Code} (h : isGroupOpcode (c 0) = true) : FromModrm (decodeBody c) := by
  simp only [isGroupOpcode, decide_eq_true_eq, List.mem_cons, List.not_mem_nil, or_false] at h
  rcases h with h | h | h | h | h | h | h | h | h | h | h | h | h | h | h
  all_goals unfold decodeBody; rw [h]
  iterate 4 exact aluInstr_fromModrm _ (Nat.le_add_right_of_le (by decide))
  iterate 4 exact shiftInstr_fromModrm c (Nat.le_add_right 2 _)
  iterate 2 exact group3_fromModrm c (Nat.le_add_right_of_le (by decide)) (Nat.le_add_right 2 _)
  · exact group4_fromModrm c
  · exact group5_fromModrm c
  · exact group0_fromModrm c ⟨rfl, Nat.le_add_right 2 _⟩
  iterate 2 exact group0_fromModrm c ⟨rfl, Nat.le_add_right_of_le (by decide)⟩

/-! ### The loop over the prefixes -/

/-- A decode result seen from before these prefixes, outermost first. -/
def underAll (qs : List Prefix) (r : DecodeResult) : DecodeResult := qs.foldr DecodeResult.under r

theorem underAll_ok (qs : List Prefix) (i : Instr) : underAll qs (.ok i) = .ok (Prefix.wrapAll qs i) := by
  induction qs with
  | nil => rfl
  | cons q qs ih => exact congrArg (DecodeResult.under q) ih

theorem underAll_error (qs : List Prefix) (why : DecodeReason) (n : Nat) :
    underAll qs (.error why n) = .error why (n + qs.length) := by
  induction qs with
  | nil => rfl
  | cons q qs ih => exact congrArg (DecodeResult.under q) ih

theorem len_wrapAll (qs : List Prefix) (i : Instr) : (Prefix.wrapAll qs i).len = qs.length + i.len := by
  induction qs with
  | nil => exact (Nat.zero_add _).symm
  | cons q qs ih => rw [List.length_cons, Nat.add_right_comm, ← ih]; cases q <;> rfl

theorem read_underAll (qs : List Prefix) (r : DecodeResult) : (underAll qs r).read = qs.length + r.read := by
  cases r with
  | ok i => rw [underAll_ok]; exact len_wrapAll qs i
  | error why n => rw [underAll_error]; exact Nat.add_comm _ _

theorem read_fit (room : Nat) (r : DecodeResult) : (r.fit room).read = r.read := by
  cases r with
  | ok i => rw [DecodeResult.fit]; split <;> rfl
  | error why n => rfl

theorem isPrefix_wrap (q : Prefix) (i : Instr) : isPrefix (q.wrap i) = true := by cases q <;> rfl

theorem wrap_inj {p q : Prefix} {i j : Instr} (h : p.wrap i = q.wrap j) : p = q ∧ i = j := by
  cases p <;> cases q <;> cases h <;> exact ⟨rfl, rfl⟩

/-- A term is an unprefixed instruction under prefixes in one way only. -/
theorem wrapAll_inj {ps qs : List Prefix} {i j : Instr} (hi : isPrefix i = false) (hj : isPrefix j = false)
    (h : Prefix.wrapAll ps i = Prefix.wrapAll qs j) : ps = qs ∧ i = j := by
  induction ps generalizing qs with
  | nil =>
    cases qs with
    | nil => exact ⟨rfl, h⟩
    | cons q qs => cases h; cases hi.symm.trans (isPrefix_wrap q _)
  | cons p ps ih =>
    cases qs with
    | nil => cases h; cases hj.symm.trans (isPrefix_wrap p _)
    | cons q qs =>
      obtain ⟨rfl, htail⟩ := wrap_inj h
      obtain ⟨rfl, hij⟩ := ih htail
      exact ⟨rfl, hij⟩

/-- Either prefixes use up all the room, or the opcode map decodes what stands after them (R346). -/
theorem decodeWithin_cases (p : Params) (room : Nat) (c : Code) :
    (prefixCount p room c = room ∧ decodeWithin p room c = .error .tooLong room) ∨
    ∃ qs : List Prefix, prefixCount p room c = qs.length ∧ qs.length < room ∧
      decodeWithin p room c = underAll qs ((decodeBody fun k => c (k + qs.length)).fit (room - qs.length)) := by
  induction room generalizing c with
  | zero => exact .inl ⟨rfl, rfl⟩
  | succ room ih =>
    cases hq : prefixAt p (c 0) with
    | none => exact .inr ⟨[], by simp [prefixCount, hq], Nat.succ_pos _, by simp [decodeWithin, hq, underAll]⟩
    | some q =>
      rcases ih fun k => c (k + 1) with ⟨hcount, hdec⟩ | ⟨qs, hcount, hlt, hdec⟩
      · exact .inl ⟨by simp [prefixCount, hq, hcount], by simp [decodeWithin, hq, hdec, DecodeResult.under]⟩
      · refine .inr ⟨q :: qs, by simp [prefixCount, hq, hcount], Nat.succ_lt_succ hlt, ?_⟩
        simp [decodeWithin, hq, hdec, underAll, Nat.add_assoc]

/-- The prefixes end at the first other byte, or when the room is used up. -/
theorem prefixCount_eq {p : Params} {room : Nat} {c : Code} {j : Nat} (hj : j ≤ room)
    (hall : ∀ k, k < j → (prefixAt p (c k)).isSome = true) (hend : j < room → prefixAt p (c j) = none) :
    prefixCount p room c = j := by
  induction room generalizing c j with
  | zero => exact (Nat.le_zero.mp hj).symm
  | succ room ih =>
    cases j with
    | zero => rw [prefixCount, hend (Nat.succ_pos _)]
    | succ j =>
      obtain ⟨q, hq⟩ := Option.isSome_iff_exists.mp (hall 0 (Nat.succ_pos _))
      rw [prefixCount, hq]
      exact congrArg (· + 1) (ih (Nat.le_of_succ_le_succ hj) (fun k hk => hall (k + 1) (Nat.succ_lt_succ hk))
        fun hlt => hend (Nat.succ_lt_succ hlt))

/-- A successful decode took the prefixes of the instruction it gives. -/
theorem prefixCount_of_decode_ok {p : Params} {c : Code} {ps : List Prefix} {i : Instr} (hi : isPrefix i = false)
    (h : decode p c = .ok (Prefix.wrapAll ps i)) :
    prefixCount p p.maxInsnLen c = ps.length ∧ ps.length < p.maxInsnLen := by
  rcases decodeWithin_cases p p.maxInsnLen c with ⟨-, hdec⟩ | ⟨qs, hcount, hlt, hdec⟩
  · cases hdec.symm.trans h
  · rw [← decode, h] at hdec
    cases hbody : decodeBody fun k => c (k + qs.length) with
    | error why n =>
      rw [hbody, DecodeResult.fit, underAll_error] at hdec
      cases hdec
    | ok j =>
      rw [hbody, DecodeResult.fit] at hdec
      split at hdec
      · rw [underAll_ok, DecodeResult.ok.injEq] at hdec
        obtain ⟨rfl, -⟩ := wrapAll_inj hi (isPrefix_of_decodeBody hbody) hdec
        exact ⟨hcount, hlt⟩
      · rw [underAll_error] at hdec
        cases hdec

/-- Decoding a group opcode reads the opcode byte and its ModRM byte (R322). -/
theorem read_decode_of_group {p : Params} {c : Code} {j : Nat} (hj : prefixCount p p.maxInsnLen c = j)
    (hlt : j < p.maxInsnLen) (hg : isGroupOpcode (c j) = true) : j + 2 ≤ (decode p c).read := by
  rcases decodeWithin_cases p p.maxInsnLen c with ⟨hcount, -⟩ | ⟨qs, hcount, -, hdec⟩
  · omega
  · obtain rfl : qs.length = j := hcount.symm.trans hj
    have htwo := (fromModrm_of_group (c := fun k => c (k + qs.length)) (by rwa [Nat.zero_add])).2
    rw [decode, hdec, read_underAll, read_fit]
    omega

/-! ### The positions fetched -/

/-- With `DECODE_TRACE = contained` the positions fetched are the bytes read (R233). -/
theorem mem_containedTrace {n : Nat} {free : List Nat} {k : Nat} : k ∈ containedTrace n free ↔ k < n := by
  by_cases hk : k ∈ free <;> simp [containedTrace, hk]

theorem refetches_error (why : DecodeReason) (n : Nat) : refetches (.error why n) = true ↔ why ≠ .invalidOpcode := by
  cases why <;> simp [refetches]

/-- Pass 1 of the reference trace over `n` bytes: position `m` twice, if `twice` (R233). -/
def firstPass (m : Nat) (twice : Bool) (n : Nat) : List Nat :=
  (List.range n).flatMap fun k => if k = m ∧ twice = true then [k, k] else [k]

theorem referenceTrace_ok (p : Params) (c : Code) (i : Instr) :
    referenceTrace p c (.ok i) =
      firstPass (prefixCount p p.maxInsnLen c + 1) (isGroupOpcode (c (prefixCount p p.maxInsnLen c))) i.len ++
        List.range i.len := by
  rw [referenceTrace, refetches, Bool.and_true]
  rfl

theorem referenceTrace_error (p : Params) (c : Code) (why : DecodeReason) (n : Nat) :
    referenceTrace p c (.error why n) =
      firstPass (prefixCount p p.maxInsnLen c + 1)
        (isGroupOpcode (c (prefixCount p p.maxInsnLen c)) && refetches (.error why n)) n := rfl

theorem firstPass_succ (m : Nat) (twice : Bool) (n : Nat) :
    firstPass m twice (n + 1) = firstPass m twice n ++ if n = m ∧ twice = true then [n, n] else [n] := by
  simp [firstPass, List.range_succ]

theorem firstPass_once {m : Nat} {twice : Bool} {n : Nat} (h : twice = true → n ≤ m) :
    firstPass m twice n = List.range n := by
  induction n with
  | zero => rfl
  | succ n ih =>
    rw [firstPass_succ, ih fun ht => Nat.le_of_succ_le (h ht), if_neg fun hn => absurd (h hn.2) (by omega),
      List.range_succ]

theorem firstPass_twice {m n : Nat} (h : m < n) :
    firstPass m true n = List.range m ++ [m] ++ (List.range n).drop m := by
  induction n, h using Nat.le_induction with
  | base => simp [firstPass_succ, firstPass_once, List.range_succ]
  | succ n hn ih =>
    rw [firstPass_succ, ih, if_neg fun hm => absurd hm.1 (by omega), List.range_succ,
      List.drop_append_of_le_length (by simp; omega), List.append_assoc _ _ [n]]

/-- The first pass when the ModRM byte, if it is fetched twice, is among the bytes read. -/
theorem firstPass_eq {j n : Nat} {twice : Bool} (h : twice = true → j + 2 ≤ n) :
    firstPass (j + 1) twice n =
      if twice = true then List.range (j + 1) ++ [j + 1] ++ (List.range n).drop (j + 1) else List.range n := by
  cases twice with
  | false => exact firstPass_once nofun
  | true => exact firstPass_twice (h rfl)

theorem State.trace_reference {s : State} (h : s.params.decodeTrace = .reference) :
    s.trace = referenceTrace s.params s.code s.decoded := by
  rw [State.trace, h]

end Sys2Proof.Machine

open Sys2Proof Sys2Proof.Machine

/-- Settles O14: the positions of the reference trace are those of the first pass, which stops after the bytes read,
and of the second. -/
theorem decodeEventsLieInside : Obligations.DecodeEventsLieInside := by
  unfold Obligations.DecodeEventsLieInside
  refine ⟨fun s ht => ?_, fun s ps i ht hdec hi => ?_, fun s why n j ht hdec hlt hall hend => ?_, fun s ht hall => ?_⟩
  · have hmem : ∀ k, k ∈ s.trace ↔ k < s.decoded.read := fun k => by
      rw [State.trace, ht]
      exact mem_containedTrace
    refine ⟨fun e he => ?_, fun k hk => List.mem_map.mpr ⟨k, (hmem k).mpr hk, rfl⟩⟩
    obtain ⟨k, hk, rfl⟩ := List.mem_map.mp he
    exact ⟨k, (hmem k).mp hk, rfl⟩
  · obtain ⟨hcount, hlt⟩ := prefixCount_of_decode_ok hi hdec
    have hread := read_decode_of_group hcount hlt
    rw [← State.decoded, hdec, DecodeResult.read] at hread
    rw [State.trace_reference ht, hdec, referenceTrace_ok, hcount, firstPass_eq hread, len_wrapAll]
  · have hcount := prefixCount_eq hlt.le hall fun _ => hend
    have hread := read_decode_of_group hcount hlt
    rw [← State.decoded, hdec, DecodeResult.read] at hread
    rw [State.trace_reference ht, hdec, referenceTrace_error, hcount,
      firstPass_eq fun htwice => hread (Bool.and_elim_left htwice)]
    simp only [Bool.and_eq_true, refetches_error]
  · have hcount := prefixCount_eq le_rfl hall fun hlt => absurd hlt (Nat.lt_irrefl _)
    have hdec : s.decoded = .error .tooLong s.params.maxInsnLen := by
      rcases decodeWithin_cases s.params s.params.maxInsnLen s.code with ⟨-, hdec⟩ | ⟨qs, hqs, hlt, -⟩
      · exact hdec
      · omega
    rw [State.trace_reference ht, hdec, referenceTrace_error, hcount, firstPass_once fun _ => Nat.le_succ _]
end

section
/-! PROOFS. Operands, the stack, and the step: what reading and writing an operand does, and that a step executes the
instruction its bytes decode to. -/

namespace Sys2Proof.Machine

/-! ### Operands -/

/-- An operand that can be written reads back as written (R423, R424). -/
theorem State.read_write_same (s : State) {w : Nat} {l : Loc w} (v : BitVec w) (h : s.holdsLoc l) :
    ((s.write l v).read l).1 = v := by
  cases l with
  | r8 r => exact (s.getR8_setR8 r r v).trans (if_pos rfl)
  | r16 r => exact (s.getR16_setR16 r r v).trans (if_pos rfl)
  | sreg g => exact (s.getSReg_setSReg g g v).trans (if_pos rfl)
  | imm8 x => exact h.elim
  | imm16 x => exact h.elim
  | mem8 seg off => exact s.memByte_memWrite_same v h
  | mem16 seg off => exact s.segRead16_segWrite16 seg off v h

/-- A word read gives the two bytes and records a fetch of each, the low one first (R211, R231). -/
theorem State.segRead16_eq (s : State) (seg off : Word) :
    let a := flat seg off
    let b := second s.params.wordWrap seg off
    s.segRead16 seg off = (s.memByte b ++ s.memByte a,
      { s with events := s.events ++ [⟨.fetch, a, s.memByte a⟩, ⟨.fetch, b, s.memByte b⟩] }) := by
  refine Prod.ext (s.segRead16_fst seg off) ?_
  simp only [State.segRead16, State.memRead, State.record, List.append_assoc, List.singleton_append]
  rfl

/-- A byte store is recorded with the value stored (R207, R231). -/
theorem State.memWrite_events (s : State) (a : Addr) (v : Byte) :
    (s.memWrite a v).events = s.events ++ [⟨.store, a, v⟩] := rfl

/-! ### The stack -/

/-- A pop after a push gives the word pushed, when the slot is in memory (R432). -/
theorem State.pop16_push16 (s : State) (v : Word) (h : s.holdsWord s.ss (s.sp - 2)) : (s.push16 v).pop16.1 = v := by
  have hslot : (s.setR16 .sp (s.sp - 2)).holdsWord s.ss (s.sp - 2) := h
  have hread := (s.setR16 .sp (s.sp - 2)).segRead16_segWrite16 s.ss (s.sp - 2) v hslot
  rw [State.pop16, State.push16_ss, State.push16_sp]
  exact hread

/-! ### Fetching -/

/-- Fetching begins the outputs and may take a draw; the state tuple stays (R401). -/
theorem State.fetched_sameTuple (s : State) : s.fetched.sameTuple s := by
  simp [State.sameTuple, State.fetched]

end Sys2Proof.Machine

open Sys2Proof Sys2Proof.Machine

/-- Settles O21: registers by name, memory by its two byte accesses. -/
theorem operandWriteThenRead : Obligations.OperandWriteThenRead := by
  unfold Obligations.OperandWriteThenRead
  refine ⟨fun s w l v => s.read_write_same v, fun s => ⟨rfl, rfl, rfl, rfl, rfl, rfl, rfl, rfl, rfl, rfl, rfl, rfl⟩,
    State.getR16_setR16, State.getSReg_setSReg, fun s r q g v w => ⟨rfl, rfl, rfl, rfl, rfl, rfl, rfl, rfl⟩,
    fun s seg off => ⟨rfl, s.segRead16_eq seg off, fun v => rfl, fun v => rfl⟩, fun s a v => ?_⟩
  exact ⟨s.memWrite_events a v, s.memByte_memWrite_same v, fun b => s.memByte_memWrite_ne v, rfl⟩

/-- Settles O22: SP falls and rises by 2, and the word read is the one stored at the slot (R430, R431). -/
theorem pushThenPop : Obligations.PushThenPop := by
  unfold Obligations.PushThenPop
  intro s v h
  refine ⟨s.pop16_push16 v h, ?_⟩
  rw [State.pop16_sp, State.push16_sp, BitVec.sub_add_cancel]

/-- Settles O7: the current instruction is the one decoded, and fetching changes outputs only. -/
theorem stepRunsDecodedInstruction : Obligations.StepRunsDecodedInstruction := by
  unfold Obligations.StepRunsDecodedInstruction
  refine ⟨fun s i h => ?_, fun s => rfl, fun s => ⟨s.fetched_sameTuple, rfl, rfl, rfl⟩⟩
  rw [step, State.current, h, DecodeResult.instr]
end

section
/-! PROOFS. The frames of the arithmetic instructions: what addition, subtraction, comparison, INC, DEC, NEG and NOT
leave alone. `frame_of` gives an instruction's frame from what its rule keeps. -/

namespace Sys2Proof.Machine

/-! ### What one more operation keeps -/

theorem Footprint.le_refl (a : Footprint) : a.le a := by
  simp +contextual [Footprint.le]

theorem Footprint.le_join_left (a b : Footprint) : a.le (a.join b) := by
  simp +contextual [Footprint.le, Footprint.join]

section
variable {s t : State} {fp : Footprint}

theorem Keeps.params_eq (h : Keeps s t fp) : t.params = s.params := by
  obtain ⟨-, -, -, -, -, -, hparams⟩ := h
  exact hparams

theorem Keeps.read (h : Keeps s t fp) {w : Nat} (l : Loc w) : Keeps s (t.read l).2 fp := h.comp (keeps_read t l fp)

/-- New flags where the footprint has every flag that differs. -/
theorem Keeps.setFlags (h : Keeps s t fp) {f : Flags} (hf : ∀ n, n ∉ fp.flags → f.get n = t.flags.get n) :
    Keeps s (t.setFlags f) fp :=
  h.comp (keeps_setFlags t f hf)

/-- A store to an operand that the footprint has. -/
theorem Keeps.write (h : Keeps s t fp) {w : Nat} {l : Loc w} (hl : (writeFootprint s.params.wordWrap l).le fp)
    (v : BitVec w) : Keeps s (t.write l v) fp := by
  rw [← h.params_eq] at hl
  exact h.comp ((keeps_write t l v).mono hl)

end

/-! ### What each kind of rule keeps -/

section
variable (ins : Ins) (s : State)

theorem keeps_aluStore {op : ∀ w : Nat, BitVec w → BitVec w → Flags → BitVec w × Flags} (f : AluForm)
    (hop : ∀ w a b x, (op w a b x).2.SameControl x) :
    Keeps s (aluStore op f ins s)
      ((writeFootprint s.params.wordWrap (aluPair ins s f).dst).join { flags := statusFlags }) :=
  ((((Keeps.refl s _).read _).read _).setFlags fun _ hn => (hop _ _ _ _).get (mt (List.mem_append_right _) hn)).write
    (Footprint.le_join_left _ _) _

theorem keeps_aluCompare {op : ∀ w : Nat, BitVec w → BitVec w → Flags → BitVec w × Flags} (f : AluForm)
    (hop : ∀ w a b x, (op w a b x).2.SameControl x) : Keeps s (aluCompare op f ins s) { flags := statusFlags } :=
  (((Keeps.refl s _).read _).read _).setFlags fun _ hn => (hop _ _ _ _).get hn

theorem keeps_unaryStore {op : ∀ w : Nat, BitVec w → Flags → BitVec w × Flags} (o : Single) {fl : List FlagName}
    (hop : ∀ w a x n, n ∉ fl → (op w a x).2.get n = x.get n) :
    Keeps s (unaryStore op o s) ((writeFootprint s.params.wordWrap o.loc).join { flags := fl }) :=
  (((Keeps.refl s _).read _).setFlags fun n hn => hop _ _ _ n (mt (List.mem_append_right _) hn)).write
    (Footprint.le_join_left _ _) _

theorem keeps_notBody (f : UnForm) :
    Keeps s (notBody f ins s) (writeFootprint s.params.wordWrap (unOperand ins s f).loc) :=
  ((Keeps.refl s _).read _).write (Footprint.le_refl _) _

end

/-! ### From the rule to the instruction -/

/-- What an instruction's rule keeps, the instruction keeps under any prefixes: otherwise than by its rule the step
ends in a status only, with ip at most moved (R403, R406, R1101). -/
theorem frame_of {i : Instr} {body : Ins → State → State} {fp : Ins → State → Footprint}
    (hi : ∀ ps s, runIn ps i s = complete ps i body s) (hbody : ∀ ins u, Keeps u (body ins u) (fp ins u)) :
    Frame i fp := by
  intro ps s t ht
  by_cases ha : s.allows ps
  · rw [exec_wrapAll ps i s ha, hi, complete_eq, Host.Outcome.next.injEq] at ht
    subst ht
    split
    · exact (keeps_start s ps i _).comp (hbody _ _)
    · exact (keeps_advance s _ _).comp (keeps_setStatus _ _ _)
  · obtain ⟨bytes, hb⟩ := exec_wrapAll_lock ps i s ha
    rw [hb, Host.Outcome.next.injEq] at ht
    subst ht
    exact keeps_decodeFailure s _ _ _

end Sys2Proof.Machine

open Sys2Proof Sys2Proof.Machine

/-- Settles O50: each rule is one of the shared shapes of R441, and none of them writes but its destination and the
flags of its flag function. -/
theorem arithmeticFrame : Obligations.ArithmeticFrame := by
  unfold Obligations.ArithmeticFrame
  refine ⟨fun f => ⟨?add, ?adc, ?sub, ?sbb, ?cmp⟩, fun f => ⟨?inc, ?dec⟩, fun f => ⟨?neg, ?not⟩⟩
  case add | adc =>
    exact frame_of (fun _ _ => rfl) fun ins u => keeps_aluStore ins u f fun _ a b x => addFlags_sameControl a b _ x
  case sub | sbb =>
    exact frame_of (fun _ _ => rfl) fun ins u => keeps_aluStore ins u f fun _ a b x => subFlags_sameControl a b _ x
  case cmp =>
    exact frame_of (fun _ _ => rfl) fun ins u => keeps_aluCompare ins u f fun _ a b x => subFlags_sameControl a b _ x
  case inc =>
    exact frame_of (fun _ _ => rfl) fun ins u => keeps_unaryStore u _ fun _ a x _ => incFlags_get a x
  case dec =>
    exact frame_of (fun _ _ => rfl) fun ins u => keeps_unaryStore u _ fun _ a x _ => decFlags_get a x
  case neg =>
    exact frame_of (fun _ _ => rfl) fun ins u =>
      keeps_unaryStore u _ fun _ a x _ => (subFlags_sameControl _ a _ x).get
  case not => exact frame_of (fun _ _ => rfl) fun ins u => keeps_notBody ins u f
end

section
/-! PROOFS. The flags of additions and subtractions as facts about exact sums and differences (R450 to R453), and the
conditions after a comparison (R460). -/

namespace Sys2Proof.Machine

/-! ### The sign of a result -/

/-- The exact value `t` is a signed number of `w` bits. -/
abbrev FitsSigned (w : Nat) (t : Int) : Prop := -(2 ^ (w - 1) : Int) ≤ t ∧ t < 2 ^ (w - 1)

theorem fitsSigned_toInt {w : Nat} (a : BitVec w) : FitsSigned w a.toInt := ⟨a.le_toInt, a.toInt_lt⟩

/-- The top bit of a result is the sign of the exact value, unless that does not fit. -/
theorem msb_ofInt {w : Nat} (hw : 0 < w) {t : Int} (hlo : -(2 ^ (w - 1) * 2) ≤ t) (hhi : t < 2 ^ (w - 1) * 2) :
    (BitVec.ofInt w t).msb = decide (t < 0 ↔ FitsSigned w t) := by
  have hhalf : ((2 ^ w : Nat) : Int) = 2 ^ (w - 1) * 2 := by
    rw [← Nat.two_pow_pred_mul_two hw]
    push_cast
    rfl
  rw [BitVec.msb_eq_toInt, BitVec.toInt_ofInt, decide_eq_decide, Int.bmod_neg_iff (hhalf ▸ hlo) (hhalf ▸ hhi), hhalf,
    FitsSigned]
  omega

theorem addFlags_eq_ofInt {w : Nat} (a b : BitVec w) (c : Bool) (f : Flags) :
    (addFlags a b c f).1 = BitVec.ofInt w (a.toInt + b.toInt + c.toNat) := by
  rw [addFlags_fst, BitVec.ofInt_add, BitVec.ofInt_add, BitVec.ofInt_toInt, BitVec.ofInt_toInt, BitVec.ofInt_natCast]

theorem subFlags_eq_ofInt {w : Nat} (a b : BitVec w) (c : Bool) (f : Flags) :
    (subFlags a b c f).1 = BitVec.ofInt w (a.toInt - b.toInt - c.toNat) := by
  rw [subFlags_fst, Int.sub_eq_add_neg, Int.sub_eq_add_neg, BitVec.ofInt_add, BitVec.ofInt_add, BitVec.ofInt_neg,
    BitVec.ofInt_neg, BitVec.ofInt_toInt, BitVec.ofInt_toInt, BitVec.ofInt_natCast, BitVec.sub_eq_add_neg,
    BitVec.sub_eq_add_neg]

/-! ### The carry between bits -/

/-- A bit of `x xor y xor (x + y + c)` is the carry into it: bit 4 is AF (R452, R453). -/
theorem getLsbD_xor_add {w k : Nat} (hk : k < w) (x y : BitVec w) (c : Bool) :
    (x ^^^ y ^^^ (x + y + BitVec.ofNat w c.toNat)).getLsbD k = BitVec.carry k x y c := by
  rw [← BitVec.toNat_ofBool, BitVec.ofNat_toNat, BitVec.getLsbD_xor, BitVec.getLsbD_xor,
    BitVec.getLsbD_add_add_bool hk]
  cases x.getLsbD k <;> cases y.getLsbD k <;> cases BitVec.carry k x y c <;> rfl

/-- The low bits of a sum are the sum of the low bits. -/
theorem toNat_add_mod {w k : Nat} (hk : k ≤ w) (x y : BitVec w) (c : Bool) :
    (x + y + BitVec.ofNat w c.toNat).toNat % 2 ^ k = (x.toNat % 2 ^ k + y.toNat % 2 ^ k + c.toNat) % 2 ^ k := by
  have hdvd : 2 ^ k ∣ 2 ^ w := Nat.pow_dvd_pow 2 hk
  simp [BitVec.toNat_add, Nat.mod_mod_of_dvd _ hdvd, Nat.add_mod]

/-! ### The flags of a sum and of a difference -/

theorem parity_eq {w : Nat} (r : BitVec w) :
    parity r = decide (((List.range 8).filter fun k => r.getLsbD k).length % 2 = 0) := by
  rw [parity, List.countP_eq_length_filter]
  rfl

section
variable {w : Nat} (a b : BitVec w) (c : Bool) (f : Flags)

theorem addFlags_CF : (addFlags a b c f).2.CF = decide (2 ^ w ≤ a.toNat + b.toNat + c.toNat) := by
  have hpos := Nat.two_pow_pos w
  have hCF : (addFlags a b c f).2.CF = decide (2 ^ w - 1 < a.toNat + b.toNat + c.toNat) := rfl
  rw [hCF, decide_eq_decide]
  omega

theorem addFlags_AF (hw : 4 < w) :
    (addFlags a b c f).2.AF = decide (15 < a.toNat % 16 + b.toNat % 16 + c.toNat) := by
  have hAF : (addFlags a b c f).2.AF = (a ^^^ b ^^^ (addFlags a b c f).1).getLsbD 4 := rfl
  rw [hAF, addFlags_fst, getLsbD_xor_add hw, BitVec.carry, decide_eq_decide]
  omega

theorem addFlags_OF (hw : 0 < w) :
    (addFlags a b c f).2.OF = decide (¬ FitsSigned w (a.toInt + b.toInt + c.toNat)) := by
  have hOF : (addFlags a b c f).2.OF = (a.msb == b.msb && (addFlags a b c f).1.msb != a.msb) := rfl
  obtain ⟨ha, ha'⟩ := fitsSigned_toInt a
  obtain ⟨hb, hb'⟩ := fitsSigned_toInt b
  have hc := c.toNat_le
  rw [hOF, addFlags_eq_ofInt, msb_ofInt hw (by omega) (by omega), BitVec.msb_eq_toInt, BitVec.msb_eq_toInt,
    Bool.eq_iff_iff]
  simp only [Bool.and_eq_true, beq_iff_eq, bne_iff_ne, ne_eq, decide_eq_decide, decide_eq_true_eq]
  omega

theorem subFlags_CF : (subFlags a b c f).2.CF = decide (a.toNat < b.toNat + c.toNat) := by
  have hCF : (subFlags a b c f).2.CF = decide ((a.toNat : Int) - b.toNat - c.toNat < 0) := rfl
  rw [hCF, decide_eq_decide]
  omega

/-- The minuend is the sum of the difference, the subtrahend and the borrow, so the borrow is that sum's carry. -/
theorem subFlags_AF (hw : 4 < w) : (subFlags a b c f).2.AF = decide (a.toNat % 16 < b.toNat % 16 + c.toNat) := by
  have hAF : (subFlags a b c f).2.AF = (a ^^^ b ^^^ (subFlags a b c f).1).getLsbD 4 := rfl
  rw [hAF, subFlags_fst]
  generalize hr : a - b - BitVec.ofNat w c.toNat = r
  have ha : a = r + b + BitVec.ofNat w c.toNat := by
    rw [← hr, add_right_comm, BitVec.sub_add_cancel, BitVec.sub_add_cancel]
  have hlow := toNat_add_mod hw.le r b c
  rw [← ha] at hlow
  have hc := c.toNat_le
  have hxor : a ^^^ b ^^^ r = r ^^^ b ^^^ a := by
    rw [BitVec.xor_comm, BitVec.xor_comm a b, BitVec.xor_assoc]
  rw [hxor, ha, getLsbD_xor_add hw, ← ha, BitVec.carry, decide_eq_decide]
  omega

theorem subFlags_msb (hw : 0 < w) : (subFlags a b c f).1.msb =
    decide (a.toInt - b.toInt - c.toNat < 0 ↔ FitsSigned w (a.toInt - b.toInt - c.toNat)) := by
  obtain ⟨ha, ha'⟩ := fitsSigned_toInt a
  obtain ⟨hb, hb'⟩ := fitsSigned_toInt b
  have hc := c.toNat_le
  rw [subFlags_eq_ofInt, msb_ofInt hw (by omega) (by omega)]

theorem subFlags_OF (hw : 0 < w) :
    (subFlags a b c f).2.OF = decide (¬ FitsSigned w (a.toInt - b.toInt - c.toNat)) := by
  have hOF : (subFlags a b c f).2.OF = (a.msb != b.msb && (subFlags a b c f).1.msb != a.msb) := rfl
  obtain ⟨ha, ha'⟩ := fitsSigned_toInt a
  obtain ⟨hb, hb'⟩ := fitsSigned_toInt b
  have hc := c.toNat_le
  rw [hOF, subFlags_msb a b c f hw, BitVec.msb_eq_toInt, BitVec.msb_eq_toInt, Bool.eq_iff_iff]
  simp only [Bool.and_eq_true, bne_iff_ne, ne_eq, decide_eq_decide, decide_eq_true_eq]
  omega

/-- SF and OF differ exactly when the exact difference is negative, whether it fits or not. -/
theorem subFlags_SF_bne_OF (hw : 0 < w) :
    ((subFlags a b c f).2.SF != (subFlags a b c f).2.OF) = decide (a.toInt < b.toInt + c.toNat) := by
  have hSF : (subFlags a b c f).2.SF = (subFlags a b c f).1.msb := rfl
  rw [subFlags_OF a b c f hw, hSF, subFlags_msb a b c f hw, Bool.eq_iff_iff]
  simp only [bne_iff_ne, ne_eq, decide_eq_decide, decide_eq_true_eq]
  omega

/-- ZF after a comparison. -/
theorem subFlags_ZF_eq : (subFlags a b false f).2.ZF = decide (a = b) := by
  have hZF : (subFlags a b false f).2.ZF = decide ((subFlags a b false f).1 = 0#w) := rfl
  rw [hZF, subFlags_fst, decide_eq_decide]
  simp [BitVec.sub_eq_iff_eq_add]

end

end Sys2Proof.Machine

open Sys2Proof Sys2Proof.Machine

/-- Settles O23: CF, AF and OF by the unsigned sum, the sum of the low four bits and the signed sum (R452). -/
theorem additionFlags : Obligations.AdditionFlags := by
  unfold Obligations.AdditionFlags
  refine ⟨fun w r f => ⟨parity_eq r, rfl⟩, fun w a b c f hw => ?_⟩
  exact ⟨BitVec.toNat_ofNat _ _, addFlags_CF a b c f, addFlags_AF a b c f hw, addFlags_OF a b c f (by omega), rfl, rfl,
    parity_eq _, rfl, rfl, rfl⟩

/-- Settles O24: CF, AF and OF by the unsigned difference, that of the low four bits and the signed one (R453). -/
theorem subtractionFlags : Obligations.SubtractionFlags := by
  unfold Obligations.SubtractionFlags
  intro w a b c f hw
  refine ⟨?_, subFlags_CF a b c f, subFlags_AF a b c f hw, subFlags_OF a b c f (by omega), rfl, rfl, parity_eq _, rfl,
    rfl, rfl⟩
  have hr : (subFlags a b c f).1 = BitVec.ofInt w ((a.toNat : Int) - b.toNat - c.toNat) := rfl
  rw [hr, BitVec.toNat_ofInt, Int.toNat_of_nonneg (Int.emod_nonneg _ (by positivity))]
  push_cast
  rfl

/-- Settles O25: B, Z and L are the three orders, and every other condition is made of these (R460). -/
theorem conditionsAfterCompare : Obligations.ConditionsAfterCompare := by
  unfold Obligations.ConditionsAfterCompare
  refine ⟨fun w a b g hw => ?_, fun f => ?_⟩
  · intro f
    have hB : condB f = decide (a.toNat < b.toNat) := subFlags_CF a b false g
    have hZ : condZ f = decide (a = b) := subFlags_ZF_eq a b g
    have hL : condL f = decide (a.toInt < b.toInt + false.toNat) := subFlags_SF_bne_OF a b false g hw
    rw [Bool.toNat_false, Nat.cast_zero, Int.add_zero] at hL
    have hBE : condBE f = decide (a.toNat ≤ b.toNat) := by
      have hor : condBE f = (condB f || condZ f) := rfl
      rw [hor, hB, hZ, ← Bool.decide_or, decide_eq_decide, ← BitVec.toNat_inj, Nat.le_iff_lt_or_eq]
    have hLE : condLE f = decide (a.toInt ≤ b.toInt) := by
      have hor : condLE f = (condZ f || condL f) := rfl
      rw [hor, hL, hZ, ← Bool.decide_or, decide_eq_decide, ← BitVec.toInt_inj, Int.le_iff_eq_or_lt]
    exact ⟨hB, hBE, hZ, hL, hLE⟩
  · have hG : condG f = !condLE f := by
      rw [condG, condLE, Bool.not_or, bne, Bool.not_not]
    exact ⟨rfl, rfl, rfl, (Bool.not_or _ _).symm, rfl, rfl, (Bool.not_not _).symm, hG⟩
end

section
/-! PROOFS. The results of ADD, ADC, SUB, SBB, CMP, INC, DEC, NEG and NOT: each is one of the shared shapes of R441 with
the value that its flag function computes. -/

namespace Sys2Proof.Machine

/-- An instruction whose meaning is `complete` of a rule runs that rule, with no condition. -/
theorem runs_of {i : Instr} {rule body : Ins → State → State} (hi : ∀ ps s, runIn ps i s = complete ps i body s)
    (hc : i.cls ≠ .esc) (h : ∀ ins u, body ins u = rule ins u) : Runs i rule :=
  runsWhen_of hi hc fun ins u _ => h ins u

/-! ### Values without a carry -/

theorem addFlags_false_fst {w : Nat} (a b : BitVec w) (f : Flags) : (addFlags a b false f).1 = a + b := by
  rw [addFlags_fst, Bool.toNat_false, BitVec.add_zero]

theorem subFlags_false_fst {w : Nat} (a b : BitVec w) (f : Flags) : (subFlags a b false f).1 = a - b := by
  rw [subFlags_fst, Bool.toNat_false, BitVec.sub_zero]

/-- NEG is a subtraction from 0 (R508). -/
theorem subFlags_zero_fst {w : Nat} (a : BitVec w) (f : Flags) : (subFlags (0#w) a false f).1 = -a := by
  rw [subFlags_false_fst, BitVec.zero_sub]

theorem incFlags_eq {w : Nat} (a : BitVec w) (f : Flags) :
    incFlags a f = (a + 1, { (addFlags a 1 false f).2 with CF := f.CF }) := by
  rw [← addFlags_false_fst a 1 f, incFlags]

theorem decFlags_eq {w : Nat} (a : BitVec w) (f : Flags) :
    decFlags a f = (a - 1, { (subFlags a 1 false f).2 with CF := f.CF }) := by
  rw [← subFlags_false_fst a 1 f, decFlags]

/-! ### The shared shapes: reading the operands changes no flag -/

section
variable (ins : Ins) (s : State)

theorem aluStore_eq (op : ∀ w : Nat, BitVec w → BitVec w → Flags → BitVec w × Flags) (f : AluForm) :
    aluStore op f ins s =
      let p := aluPair ins s f
      let a := s.read p.dst
      let b := a.2.read p.src
      let r := op p.w a.1 b.1 s.flags
      (b.2.setFlags r.2).write p.dst r.1 := by
  simp only [aluStore, State.read_flags]

theorem aluCompare_eq (op : ∀ w : Nat, BitVec w → BitVec w → Flags → BitVec w × Flags) (f : AluForm) :
    aluCompare op f ins s =
      let p := aluPair ins s f
      let a := s.read p.dst
      let b := a.2.read p.src
      b.2.setFlags (op p.w a.1 b.1 s.flags).2 := by
  simp only [aluCompare, State.read_flags]

theorem unaryStore_eq (op : ∀ w : Nat, BitVec w → Flags → BitVec w × Flags) (o : Single) :
    unaryStore op o s =
      let a := s.read o.loc
      let r := op o.w a.1 s.flags
      (a.2.setFlags r.2).write o.loc r.1 := by
  simp only [unaryStore, State.read_flags]

end

end Sys2Proof.Machine

open Sys2Proof Sys2Proof.Machine

/-- Settles O26: the common pattern of R441 with the values of the addition and subtraction rules. -/
theorem aluArithmeticResults : Obligations.AluArithmeticResults := by
  unfold Obligations.AluArithmeticResults
  refine fun f => ⟨?add, ?adc, ?sub, ?sbb, ?cmp⟩
  case add =>
    exact runs_of (fun _ _ => rfl) nofun fun ins u => by simp only [addBody, aluStore_eq, addFlags_false_fst]
  case adc =>
    exact runs_of (fun _ _ => rfl) nofun fun ins u => by simp only [adcBody, aluStore_eq, addFlags_fst]
  case sub =>
    exact runs_of (fun _ _ => rfl) nofun fun ins u => by simp only [subBody, aluStore_eq, subFlags_false_fst]
  case sbb =>
    exact runs_of (fun _ _ => rfl) nofun fun ins u => by simp only [sbbBody, aluStore_eq, subFlags_fst]
  case cmp => exact runs_of (fun _ _ => rfl) nofun fun ins u => aluCompare_eq ins u _ f

/-- Settles O27: one operand read and stored (R506 to R508), and for NOT no flag written (R605). -/
theorem unaryArithmeticResults : Obligations.UnaryArithmeticResults := by
  unfold Obligations.UnaryArithmeticResults
  refine ⟨fun f => ⟨?inc, ?dec⟩, fun f => ⟨?neg, ?not⟩⟩
  case inc =>
    exact runs_of (fun _ _ => rfl) nofun fun ins u => by simp only [incBody, unaryStore_eq, incFlags_eq]
  case dec =>
    exact runs_of (fun _ _ => rfl) nofun fun ins u => by simp only [decBody, unaryStore_eq, decFlags_eq]
  case neg =>
    exact runs_of (fun _ _ => rfl) nofun fun ins u => by simp only [negBody, unaryStore_eq, subFlags_zero_fst]
  case not => exact runs_of (fun _ _ => rfl) nofun fun ins u => rfl
end

section
/-! PROOFS. MUL and IMUL leave the exact product (R509, R510): the halves of words and double words as numbers, what
drawing flags leaves alone, and the two product rules. -/

namespace Sys2Proof.Machine

/-! ### Halves as numbers -/

theorem hiByte_toNat (v : Word) : (hiByte v).toNat = v.toNat / 256 := by
  have hv := v.isLt
  rw [hiByte, BitVec.extractLsb'_toNat, Nat.shiftRight_eq_div_pow]
  omega

/-- A double word is its high word times 2^16 plus its low word. -/
theorem toNat_append_word (hi lo : Word) : (hi ++ lo).toNat = hi.toNat * 2 ^ 16 + lo.toNat := by
  rw [BitVec.toNat_append, ← Nat.shiftLeft_add_eq_or_of_lt lo.isLt, Nat.shiftLeft_eq]

/-- A value in the signed range of a width is the signed value of its bits. -/
theorem FitsSigned.toInt_ofInt {w : Nat} {t : Int} (h : FitsSigned w t) (hw : 0 < w) :
    (BitVec.ofInt w t).toInt = t :=
  BitVec.toInt_ofInt_eq_self hw h.1 h.2

/-- A signed product fits in twice the width. -/
theorem fitsSigned_mul {w : Nat} (hw : 0 < w) (a b : BitVec w) : FitsSigned (2 * w) (a.toInt * b.toInt) := by
  have hlo := BitVec.le_toInt_mul_toInt (x := a) (y := b)
  have hhi := BitVec.toInt_mul_toInt_le (x := a) (y := b)
  have hpow : (2 : Int) ^ (2 * w - 1) = 2 ^ (w * 2 - 2) * 2 := by
    rw [← pow_succ]
    congr 1
    omega
  have hpos : (0 : Int) < 2 ^ (w * 2 - 2) := by positivity
  constructor <;> omega

/-! ### What drawing flags leaves alone -/

section
variable (s : State)

@[simp] theorem State.getR8_setFlags (f : Flags) (r : Reg8) : (s.setFlags f).getR8 r = s.getR8 r :=
  State.getR8_congr (State.getR16_congr (by simp)) r

@[simp] theorem State.getR8_drawFlag (n : StatusFlag) (r : Reg8) : (s.drawFlag n).getR8 r = s.getR8 r :=
  State.getR8_congr (State.getR16_congr (by simp)) r

@[simp] theorem State.getR8_drawFlags (ns : List StatusFlag) (r : Reg8) : (s.drawFlags ns).getR8 r = s.getR8 r :=
  State.getR8_congr (State.getR16_congr (by simp)) r

@[simp] theorem State.getR8_read {w : Nat} (l : Loc w) (r : Reg8) : (s.read l).2.getR8 r = s.getR8 r :=
  State.getR8_congr (State.getR16_congr (by simp)) r

/-- A flag that is not drawn stays. -/
theorem State.get_flags_drawFlags {ns : List StatusFlag} {n : FlagName} (h : n ∉ ns.map StatusFlag.name) :
    (s.drawFlags ns).flags.get n = s.flags.get n := by
  obtain ⟨-, -, -, hflags, -⟩ := keeps_drawFlags s ns
  exact hflags n h

end

/-! ### What a multiplication leaves -/

/-- The flags of a product are written and drawn; registers and status stay. -/
theorem productFlags_keeps (s : State) (high : Bool) :
    let t := s.productFlags high
    t.ax = s.ax ∧ t.dx = s.dx ∧ t.ip = s.ip ∧ t.status = s.status ∧ t.flags.CF = high ∧ t.flags.OF = high := by
  have hflags := fun n hn => (s.setFlags { s.flags with CF := high, OF := high }).get_flags_drawFlags
    (ns := [.SF, .ZF, .AF, .PF]) (n := n) hn
  exact ⟨by simp [State.productFlags], by simp [State.productFlags], by simp [State.productFlags],
    by simp [State.productFlags], hflags .CF (by decide), hflags .OF (by decide)⟩

/-- The high half of a word tells whether its value fits a byte. -/
theorem hiByte_ne_zero_iff (v : Word) : hiByte v ≠ 0#8 ↔ v.toNat / 2 ^ 8 ≠ 0 := by
  rw [ne_eq, ← BitVec.toNat_inj, hiByte_toNat]
  rfl

theorem not_fitsSigned_byte (p : Int) : (!fitsSigned 8 p) = decide (¬ (-128 ≤ p ∧ p ≤ 127)) := by
  rw [fitsSigned, decide_not, Bool.decide_and]
  rfl

theorem not_fitsSigned_word (p : Int) : (!fitsSigned 16 p) = decide (¬ (-32768 ≤ p ∧ p ≤ 32767)) := by
  rw [fitsSigned, decide_not, Bool.decide_and]
  rfl

section
variable (s : State)

/-- AX holds an unsigned product of two bytes (R509). -/
theorem byteProduct {p : Nat} (hp : p < 2 ^ 16) :
    let t := (s.setR16 .ax (BitVec.ofNat 16 p)).productFlags (decide (p / 2 ^ 8 ≠ 0))
    t.ax.toNat = p ∧ t.flags.CF = decide (t.getR8 .ah ≠ 0#8) ∧ t.flags.OF = t.flags.CF ∧ t.status = s.status ∧
      t.ip = s.ip := by
  intro t
  obtain ⟨hax, -, hip, hstatus, hCF, hOF⟩ :=
    productFlags_keeps (s.setR16 .ax (BitVec.ofNat 16 p)) (decide (p / 2 ^ 8 ≠ 0))
  have hp' : t.ax.toNat = p := by rw [hax, State.setR16_ax_ax, BitVec.toNat_ofNat, Nat.mod_eq_of_lt hp]
  have hah : t.getR8 .ah ≠ 0#8 ↔ p / 2 ^ 8 ≠ 0 := hp' ▸ hiByte_ne_zero_iff t.ax
  rw [decide_eq_decide.mpr hah]
  exact ⟨hp', hCF, hOF.trans hCF.symm, hstatus, hip⟩

/-- AX holds a signed product of two bytes (R510). -/
theorem signedByteProduct {p : Int} (hp : FitsSigned 16 p) :
    let t := (s.setR16 .ax (BitVec.ofInt 16 p)).productFlags (!fitsSigned 8 p)
    t.ax.toInt = p ∧ t.flags.CF = decide (¬ (-128 ≤ t.ax.toInt ∧ t.ax.toInt ≤ 127)) ∧ t.flags.OF = t.flags.CF ∧
      t.status = s.status ∧ t.ip = s.ip := by
  intro t
  obtain ⟨hax, -, hip, hstatus, hCF, hOF⟩ :=
    productFlags_keeps (s.setR16 .ax (BitVec.ofInt 16 p)) (!fitsSigned 8 p)
  have hp' : t.ax.toInt = p := by rw [hax, State.setR16_ax_ax, hp.toInt_ofInt (by decide)]
  rw [hp', ← not_fitsSigned_byte]
  exact ⟨rfl, hCF, hOF.trans hCF.symm, hstatus, hip⟩

/-- DX:AX holds an unsigned product of two words (R509). -/
theorem wordProduct {p : Nat} (hp : p < 2 ^ 32) :
    let t := ((s.setR16 .ax (BitVec.ofNat 16 p)).setR16 .dx (BitVec.ofNat 16 (p / 2 ^ 16))).productFlags
      (decide (p / 2 ^ 16 ≠ 0))
    (t.dx ++ t.ax).toNat = p ∧ t.flags.CF = decide (t.dx ≠ 0#16) ∧ t.flags.OF = t.flags.CF ∧ t.status = s.status ∧
      t.ip = s.ip := by
  intro t
  obtain ⟨hax, hdx, hip, hstatus, hCF, hOF⟩ := productFlags_keeps
    ((s.setR16 .ax (BitVec.ofNat 16 p)).setR16 .dx (BitVec.ofNat 16 (p / 2 ^ 16))) (decide (p / 2 ^ 16 ≠ 0))
  have hlow : t.ax.toNat = p % 2 ^ 16 := by rw [hax, State.setR16_dx_ax, State.setR16_ax_ax, BitVec.toNat_ofNat]
  have hhigh : t.dx.toNat = p / 2 ^ 16 := by
    rw [hdx, State.setR16_dx_dx, BitVec.toNat_ofNat]
    omega
  have hne : t.dx ≠ 0#16 ↔ p / 2 ^ 16 ≠ 0 := by rw [ne_eq, ← BitVec.toNat_inj, hhigh, BitVec.toNat_zero]
  rw [toNat_append_word, hlow, hhigh, Nat.div_add_mod', decide_eq_decide.mpr hne]
  exact ⟨rfl, hCF, hOF.trans hCF.symm, hstatus, hip⟩

/-- DX:AX holds a signed product of two words (R510). -/
theorem signedWordProduct {p : Int} (hp : FitsSigned 32 p) :
    let q := BitVec.ofInt 32 p
    let t := ((s.setR16 .ax (q.extractLsb' 0 16)).setR16 .dx (q.extractLsb' 16 16)).productFlags (!fitsSigned 16 p)
    (t.dx ++ t.ax).toInt = p ∧
      t.flags.CF = decide (¬ (-32768 ≤ (t.dx ++ t.ax).toInt ∧ (t.dx ++ t.ax).toInt ≤ 32767)) ∧
      t.flags.OF = t.flags.CF ∧ t.status = s.status ∧ t.ip = s.ip := by
  intro q t
  obtain ⟨hax, hdx, hip, hstatus, hCF, hOF⟩ := productFlags_keeps
    ((s.setR16 .ax (q.extractLsb' 0 16)).setR16 .dx (q.extractLsb' 16 16)) (!fitsSigned 16 p)
  have hq : t.dx ++ t.ax = q := by
    rw [hax, hdx, State.setR16_dx_dx, State.setR16_dx_ax, State.setR16_ax_ax]
    exact BitVec.extractLsb'_append_extractLsb'
  rw [hq, hp.toInt_ofInt (by decide), ← not_fitsSigned_word]
  exact ⟨rfl, hCF, hOF.trans hCF.symm, hstatus, hip⟩

end

end Sys2Proof.Machine

open Sys2Proof Sys2Proof.Machine

/-- Settles O28: the product of two values of a width fits in twice that width. -/
theorem multiplyResults : Obligations.MultiplyResults := by
  unfold Obligations.MultiplyResults
  refine ⟨fun e => ⟨?mulByte, ?imulByte⟩, fun e => ⟨?mulWord, ?imulWord⟩⟩
  case mulByte =>
    refine runsTo_of (fun _ _ => rfl) nofun fun ins u hu => ?_
    have h := byteProduct (u.read (ebLoc ins u e)).2 (BitVec.toNat_mul_toNat_lt
      (x := u.getR8 .al) (y := (u.read (ebLoc ins u e)).1))
    simpa only [mulBody, State.getR8_read, State.read_status, State.read_ip, hu] using h
  case imulByte =>
    refine runsTo_of (fun _ _ => rfl) nofun fun ins u hu => ?_
    have h := signedByteProduct (u.read (ebLoc ins u e)).2
      (fitsSigned_mul (by decide) (u.getR8 .al) (u.read (ebLoc ins u e)).1)
    simpa only [imulBody, State.getR8_read, State.read_status, State.read_ip, hu] using h
  case mulWord =>
    refine runsTo_of (fun _ _ => rfl) nofun fun ins u hu => ?_
    have h := wordProduct (u.read (ewLoc ins u e)).2 (BitVec.toNat_mul_toNat_lt
      (x := u.ax) (y := (u.read (ewLoc ins u e)).1))
    simpa only [mulBody, State.read_ax, State.read_status, State.read_ip, hu] using h
  case imulWord =>
    refine runsTo_of (fun _ _ => rfl) nofun fun ins u hu => ?_
    have h := signedWordProduct (u.read (ewLoc ins u e)).2
      (fitsSigned_mul (by decide) u.ax (u.read (ewLoc ins u e)).1)
    simpa only [imulBody, State.read_ax, State.read_status, State.read_ip, hu] using h
end

section
/-! PROOFS. DIV and IDIV (R511, R512): a divide error, or the quotient and the remainder stored. -/

namespace Sys2Proof.Machine

/-! ### How a division ends -/

/-- A division answers with a divide error, or stores the quotient and the remainder. -/
def State.endDivision {α : Type} (s : State) (ins : Ins) (store : State → α → α → State)
    (r : Except DivCause (α × α)) : State :=
  match r with
  | .error cause => s.divideError cause ins
  | .ok (q, m) => store s q m

/-- The quotient in AL and the remainder in AH, all status flags drawn. -/
def State.storeBytes (s : State) (q m : Byte) : State := ((s.setR8 .al q).setR8 .ah m).drawStatus

/-- The quotient in AX and the remainder in DX, all status flags drawn. -/
def State.storeWords (s : State) (q m : Word) : State := ((s.setR16 .ax q).setR16 .dx m).drawStatus

section
variable (ins : Ins) (u : State)

theorem divBody_eb (e : Rm Reg8) : divBody (.eb e) ins u =
    let b := u.read (ebLoc ins u e)
    b.2.endDivision ins (fun s q m => s.storeBytes (BitVec.ofNat 8 q) (BitVec.ofNat 8 m))
      (divide u.ax.toNat b.1.toNat 0xFF) := by
  simp only [divBody, State.read_ax]
  cases divide u.ax.toNat (u.read (ebLoc ins u e)).1.toNat 0xFF <;> rfl

theorem divBody_ew (e : Rm Reg16) : divBody (.ew e) ins u =
    let b := u.read (ewLoc ins u e)
    b.2.endDivision ins (fun s q m => s.storeWords (BitVec.ofNat 16 q) (BitVec.ofNat 16 m))
      (divide (u.dx ++ u.ax).toNat b.1.toNat 0xFFFF) := by
  simp only [divBody, State.read_ax, State.read_dx, ← toNat_append_word]
  cases divide (u.dx ++ u.ax).toNat (u.read (ewLoc ins u e)).1.toNat 0xFFFF <;> rfl

theorem idivBody_eb (e : Rm Reg8) : idivBody (.eb e) ins u =
    let b := u.read (ebLoc ins u e)
    b.2.endDivision ins (fun s q m => s.storeBytes (BitVec.ofInt 8 q) (BitVec.ofInt 8 m))
      (divideSigned (idivLow u.params 8) 127 u.ax.toInt b.1.toInt) := by
  simp only [idivBody, State.read_ax, State.read_params]
  cases divideSigned (idivLow u.params 8) 127 u.ax.toInt (u.read (ebLoc ins u e)).1.toInt <;> rfl

theorem idivBody_ew (e : Rm Reg16) : idivBody (.ew e) ins u =
    let b := u.read (ewLoc ins u e)
    b.2.endDivision ins (fun s q m => s.storeWords (BitVec.ofInt 16 q) (BitVec.ofInt 16 m))
      (divideSigned (idivLow u.params 16) 32767 (u.dx ++ u.ax).toInt b.1.toInt) := by
  simp only [idivBody, State.read_ax, State.read_dx, State.read_params]
  cases divideSigned (idivLow u.params 16) 32767 (u.dx ++ u.ax).toInt (u.read (ewLoc ins u e)).1.toInt <;> rfl

end

/-! ### Which of the three it is -/

section
variable (s : State) (ins : Ins)

theorem endDivision_divide (store : State → Nat → Nat → State) (n d qmax : Nat) :
    let t := s.endDivision ins store (divide n d qmax)
    (d = 0 → t = s.divideError .divideByZero ins) ∧
    (d ≠ 0 → qmax < n / d → t = s.divideError .quotientOverflow ins) ∧
    (d ≠ 0 → n / d ≤ qmax → t = store s (n / d) (n % d)) := by
  refine ⟨fun hd => ?_, fun hd hq => ?_, fun hd hq => ?_⟩
  · rw [divide, if_pos hd]
    rfl
  · rw [divide, if_neg hd, if_pos hq]
    rfl
  · rw [divide, if_neg hd, if_neg hq.not_gt]
    rfl

theorem endDivision_divideSigned (store : State → Int → Int → State) (lo hi n d : Int) :
    let t := s.endDivision ins store (divideSigned lo hi n d)
    (d = 0 → t = s.divideError .divideByZero ins) ∧
    (d ≠ 0 → (n.tdiv d < lo ∨ hi < n.tdiv d) → t = s.divideError .quotientOverflow ins) ∧
    (d ≠ 0 → lo ≤ n.tdiv d → n.tdiv d ≤ hi → t = store s (n.tdiv d) (n - n.tdiv d * d)) := by
  refine ⟨fun hd => ?_, fun hd hq => ?_, fun hd hlo hhi => ?_⟩
  · rw [divideSigned, if_pos hd]
    rfl
  · rw [divideSigned, if_neg hd, if_pos hq]
    rfl
  · rw [divideSigned, if_neg hd, if_neg (not_or.mpr ⟨hlo.not_gt, hhi.not_gt⟩)]
    rfl

/-! ### What is stored -/

theorem storeBytes_result (q m : Byte) :
    let t := s.storeBytes q m
    t.getR8 .al = q ∧ t.getR8 .ah = m ∧ t.status = s.status ∧ t.ip = s.ip := by
  simp [State.storeBytes, State.drawStatus, State.getR8_setR8]

theorem storeWords_result (q m : Word) :
    let t := s.storeWords q m
    t.ax = q ∧ t.dx = m ∧ t.status = s.status ∧ t.ip = s.ip := by
  simp [State.storeWords, State.drawStatus]

end

/-! ### The values fit -/

/-- A remainder is below the divisor, which has the width. -/
theorem toNat_ofNat_mod {w n : Nat} {b : BitVec w} (hb : b.toNat ≠ 0) :
    (BitVec.ofNat w (n % b.toNat)).toNat = n % b.toNat := by
  have hlt : n % b.toNat < 2 ^ w := (Nat.mod_lt n (Nat.pos_of_ne_zero hb)).trans b.isLt
  rw [BitVec.toNat_ofNat, Nat.mod_eq_of_lt hlt]

/-- A signed remainder is smaller in size than the divisor, which has the width. -/
theorem fitsSigned_remainder {w : Nat} {n : Int} {b : BitVec w} (hb : b.toInt ≠ 0) :
    FitsSigned w (n - n.tdiv b.toInt * b.toInt) := by
  have hmod : n - n.tdiv b.toInt * b.toInt = n.tmod b.toInt := by rw [Int.tmod_def, Int.mul_comm]
  have hlt : (n.tmod b.toInt).natAbs < b.toInt.natAbs := by
    rw [Int.natAbs_tmod]
    exact Nat.mod_lt _ (Int.natAbs_pos.mpr hb)
  obtain ⟨hlo, hhi⟩ := fitsSigned_toInt b
  rw [hmod]
  constructor <;> omega

/-- The least quotients of R512. -/
theorem idivLow_byte (p : Params) : idivLow p 8 = if p.idiv8086Range then -127 else -128 := rfl

theorem idivLow_word (p : Params) : idivLow p 16 = if p.idiv8086Range then -32767 else -32768 := rfl

theorem idivLow_byte_ge (p : Params) : -128 ≤ idivLow p 8 := by
  rw [idivLow_byte]
  split <;> decide

theorem idivLow_word_ge (p : Params) : -32768 ≤ idivLow p 16 := by
  rw [idivLow_word]
  split <;> decide

/-! ### The result of a division, whatever the width -/

section
variable {w : Nat} (s : State) (ins : Ins) (b : BitVec w) {store : State → BitVec w → BitVec w → State}
  {quotient remainder : State → BitVec w}
  (hstore : ∀ q m, let t := store s q m
    quotient t = q ∧ remainder t = m ∧ t.status = s.status ∧ t.ip = s.ip)
include hstore

/-- R511: a quotient of at most `qmax` fits the width, and so does the remainder. -/
theorem unsignedDivision_result (n : Nat) {qmax : Nat} (hqmax : qmax < 2 ^ w) :
    let d := b.toNat
    let t := s.endDivision ins (fun s q m => store s (BitVec.ofNat w q) (BitVec.ofNat w m)) (divide n d qmax)
    (d = 0 → t = s.divideError .divideByZero ins) ∧
    (d ≠ 0 → qmax < n / d → t = s.divideError .quotientOverflow ins) ∧
    (d ≠ 0 → n / d ≤ qmax → (quotient t).toNat = n / d ∧ (remainder t).toNat = n % d ∧ t.status = s.status ∧
      t.ip = s.ip) := by
  intro d t
  obtain ⟨hzero, hover, hok⟩ := endDivision_divide s ins
    (fun s q m => store s (BitVec.ofNat w q) (BitVec.ofNat w m)) n d qmax
  refine ⟨hzero, hover, fun hd hq => ?_⟩
  have ht : t = store s (BitVec.ofNat w (n / d)) (BitVec.ofNat w (n % d)) := hok hd hq
  obtain ⟨hquotient, hremainder, hkept⟩ := hstore (BitVec.ofNat w (n / d)) (BitVec.ofNat w (n % d))
  rw [ht, hquotient, hremainder, BitVec.toNat_ofNat, Nat.mod_eq_of_lt (hq.trans_lt hqmax)]
  exact ⟨rfl, toNat_ofNat_mod hd, hkept⟩

/-- R512: a quotient from `lo` to `hi` fits the width, and so does the remainder. -/
theorem signedDivision_result (n : Int) {lo hi : Int} (hw : 0 < w) (hlo : -(2 ^ (w - 1) : Int) ≤ lo)
    (hhi : hi < 2 ^ (w - 1)) :
    let d := b.toInt
    let t := s.endDivision ins (fun s q m => store s (BitVec.ofInt w q) (BitVec.ofInt w m)) (divideSigned lo hi n d)
    (d = 0 → t = s.divideError .divideByZero ins) ∧
    (d ≠ 0 → (n.tdiv d < lo ∨ hi < n.tdiv d) → t = s.divideError .quotientOverflow ins) ∧
    (d ≠ 0 → lo ≤ n.tdiv d → n.tdiv d ≤ hi → (quotient t).toInt = n.tdiv d ∧
      (remainder t).toInt = n - n.tdiv d * d ∧ t.status = s.status ∧ t.ip = s.ip) := by
  intro d t
  obtain ⟨hzero, hover, hok⟩ := endDivision_divideSigned s ins
    (fun s q m => store s (BitVec.ofInt w q) (BitVec.ofInt w m)) lo hi n d
  refine ⟨hzero, hover, fun hd hq hq' => ?_⟩
  have ht : t = store s (BitVec.ofInt w (n.tdiv d)) (BitVec.ofInt w (n - n.tdiv d * d)) := hok hd hq hq'
  obtain ⟨hquotient, hremainder, hkept⟩ :=
    hstore (BitVec.ofInt w (n.tdiv d)) (BitVec.ofInt w (n - n.tdiv d * d))
  have hfits : FitsSigned w (n.tdiv d) := ⟨hlo.trans hq, hq'.trans_lt hhi⟩
  rw [ht, hquotient, hremainder, hfits.toInt_ofInt hw]
  exact ⟨rfl, (fitsSigned_remainder hd).toInt_ofInt hw, hkept⟩

end

end Sys2Proof.Machine

open Sys2Proof Sys2Proof.Machine

/-- Settles O29: the three answers of a division, and that quotient and remainder fit where they are stored. -/
theorem divideResults : Obligations.DivideResults := by
  unfold Obligations.DivideResults
  refine ⟨fun e => ⟨?divByte, ?idivByte⟩, fun e => ⟨?divWord, ?idivWord⟩⟩
  case divByte =>
    refine runsTo_of (fun _ _ => rfl) nofun fun ins u hu => ?_
    have h := unsignedDivision_result (u.read (ebLoc ins u e)).2 ins (u.read (ebLoc ins u e)).1
      (quotient := (·.getR8 .al)) (remainder := (·.getR8 .ah)) (storeBytes_result _) u.ax.toNat (qmax := 0xFF)
      (by decide)
    rw [divBody_eb]
    simpa only [State.read_status, State.read_ip, hu] using h
  case idivByte =>
    refine runsTo_of (fun _ _ => rfl) nofun fun ins u hu => ?_
    have h := signedDivision_result (u.read (ebLoc ins u e)).2 ins (u.read (ebLoc ins u e)).1
      (quotient := (·.getR8 .al)) (remainder := (·.getR8 .ah)) (storeBytes_result _) u.ax.toInt (hi := 127)
      (by decide) (idivLow_byte_ge u.params) (by decide)
    rw [idivBody_eb]
    simpa only [State.read_status, State.read_ip, hu, idivLow_byte] using h
  case divWord =>
    refine runsTo_of (fun _ _ => rfl) nofun fun ins u hu => ?_
    have h := unsignedDivision_result (u.read (ewLoc ins u e)).2 ins (u.read (ewLoc ins u e)).1
      (storeWords_result _) (u.dx ++ u.ax).toNat (qmax := 0xFFFF) (by decide)
    rw [divBody_ew]
    simpa only [State.read_status, State.read_ip, hu] using h
  case idivWord =>
    refine runsTo_of (fun _ _ => rfl) nofun fun ins u hu => ?_
    have h := signedDivision_result (u.read (ewLoc ins u e)).2 ins (u.read (ewLoc ins u e)).1
      (storeWords_result _) (u.dx ++ u.ax).toInt (hi := 32767) (by decide) (idivLow_word_ge u.params) (by decide)
    rw [idivBody_ew]
    simpa only [State.read_status, State.read_ip, hu, idivLow_word] using h
end

section
/-! PROOFS. The decimal and ASCII adjustments and the sign extensions (R513 to R520). -/

namespace Sys2Proof.Machine

/-! ### Adjusting by an amount or by nothing -/

theorem ite_add_eq (c : Bool) (a b : Byte) : (if c then a + b else a) = a + (if c then b else 0#8) := by
  cases c
  · exact (BitVec.add_zero a).symm
  · rfl

theorem ite_sub_eq (c : Bool) (a b : Byte) : (if c then a - b else a) = a - (if c then b else 0#8) := by
  cases c
  · exact (BitVec.sub_zero a).symm
  · rfl

/-! ### The states the adjustments end in -/

/-- SF, ZF and PF of AL are kept when other flags are drawn (R451). -/
theorem flags_of_al {s : State} {r : Byte} (hal : s.getR8 .al = r) (f : Flags) {ns : List StatusFlag}
    (hns : ∀ n ∈ [FlagName.SF, .ZF, .PF], n ∉ ns.map StatusFlag.name) :
    let t := (s.setFlags (szp r f)).drawFlags ns
    t.flags.SF = (t.getR8 .al).msb ∧ t.flags.ZF = decide (t.getR8 .al = 0#8) ∧ t.flags.PF = parity (t.getR8 .al) ∧
      t.ip = s.ip ∧ t.status = s.status := by
  intro t
  have hflags := fun n hn => (s.setFlags (szp r f)).get_flags_drawFlags (n := n) (hns n hn)
  have hr : t.getR8 .al = r := by rw [State.getR8_drawFlags, State.getR8_setFlags, hal]
  rw [hr]
  exact ⟨hflags .SF (by decide), hflags .ZF (by decide), hflags .PF (by decide), by simp [t], by simp [t]⟩

/-- What DAA and DAS end with: AL and the flags written, OF drawn (R513, R514). -/
theorem decimalAdjust_result (s : State) (r : Byte) (high low : Bool) :
    let t := ((s.setR8 .al r).setFlags (szp r { s.flags with CF := high, AF := low })).drawFlag .OF
    t.getR8 .al = r ∧ t.flags.CF = high ∧ t.flags.AF = low ∧ t.flags.SF = (t.getR8 .al).msb ∧
      t.flags.ZF = decide (t.getR8 .al = 0#8) ∧ t.flags.PF = parity (t.getR8 .al) ∧ t.ip = s.ip ∧
      t.status = s.status := by
  have hal : (s.setR8 .al r).getR8 .al = r := s.getR8_setR8 .al .al r
  exact ⟨hal, rfl, rfl, flags_of_al hal _ (ns := [.OF]) (by decide)⟩

/-- What AAA and AAS end with: AL and AH adjusted or not, the high half of AL cleared, AF and CF written and the
other flags drawn (R515, R516). -/
theorem asciiAdjust_result (s : State) (adjust : Bool) (al ah : Byte) :
    let u := if adjust then (s.setR8 .al al).setR8 .ah ah else s
    let v := u.setR8 .al (u.getR8 .al &&& 0x0F#8)
    let t := (v.setFlags { v.flags with AF := adjust, CF := adjust }).drawFlags [.OF, .SF, .ZF, .PF]
    t.getR8 .al = (if adjust then al else s.getR8 .al) &&& 0x0F#8 ∧
      t.getR8 .ah = (if adjust then ah else s.getR8 .ah) ∧ t.flags.AF = adjust ∧ t.flags.CF = adjust ∧
      t.ip = s.ip ∧ t.status = s.status := by
  intro u v t
  have hflags := fun n hn => (v.setFlags { v.flags with AF := adjust, CF := adjust }).get_flags_drawFlags
    (ns := [.OF, .SF, .ZF, .PF]) (n := n) hn
  refine ⟨?_, ?_, hflags .AF (by decide), hflags .CF (by decide), ?_, ?_⟩
  all_goals cases adjust <;> simp [t, v, u, State.getR8_setR8]

/-- What AAM and AAD end with: SF, ZF and PF of AL, and the other status flags drawn (R517, R518). -/
theorem baseAdjust_result {s : State} {al ah : Byte} (hal : s.getR8 .al = al) (hah : s.getR8 .ah = ah) :
    let t := (s.setFlags (szp al s.flags)).drawFlags [.OF, .AF, .CF]
    t.getR8 .al = al ∧ t.getR8 .ah = ah ∧ t.flags.SF = (t.getR8 .al).msb ∧ t.flags.ZF = decide (t.getR8 .al = 0#8) ∧
      t.flags.PF = parity (t.getR8 .al) ∧ t.ip = s.ip ∧ t.status = s.status :=
  ⟨by simp [hal], by simp [hah], flags_of_al hal s.flags (by decide)⟩

theorem aamBody_result {n : Byte} (hn : n ≠ 0#8) (ins : Ins) (s : State) :
    let t := aamBody n ins s
    t.getR8 .al = s.getR8 .al % n ∧ t.getR8 .ah = s.getR8 .al / n ∧ t.flags.SF = (t.getR8 .al).msb ∧
      t.flags.ZF = decide (t.getR8 .al = 0#8) ∧ t.flags.PF = parity (t.getR8 .al) ∧ t.ip = s.ip ∧
      t.status = s.status := by
  have h := baseAdjust_result (s := (s.setR8 .ah (s.getR8 .al / n)).setR8 .al (s.getR8 .al % n))
    (by rw [State.getR8_setR8, if_pos rfl])
    (by rw [State.getR8_setR8, if_neg (by decide), State.getR8_setR8, if_pos rfl])
  rw [aamBody, if_neg hn]
  simpa only [State.setR8_ip, State.setR8_status] using h

theorem aadBody_result (n : Byte) (ins : Ins) (s : State) :
    let t := aadBody n ins s
    t.getR8 .al = s.getR8 .al + s.getR8 .ah * n ∧ t.getR8 .ah = 0#8 ∧ t.flags.SF = (t.getR8 .al).msb ∧
      t.flags.ZF = decide (t.getR8 .al = 0#8) ∧ t.flags.PF = parity (t.getR8 .al) ∧ t.ip = s.ip ∧
      t.status = s.status := by
  have h := baseAdjust_result (s := (s.setR8 .al (s.getR8 .al + s.getR8 .ah * n)).setR8 .ah 0#8)
    (by rw [State.getR8_setR8, if_neg (by decide), State.getR8_setR8, if_pos rfl])
    (by rw [State.getR8_setR8, if_pos rfl])
  rw [aadBody]
  simpa only [State.setR8_ip, State.setR8_status] using h

end Sys2Proof.Machine

open Sys2Proof Sys2Proof.Machine

/-- Settles O31: every adjustment ends in one of three shapes, and the value it leaves in AL is the rule's. -/
theorem adjustAndExtendResults : Obligations.AdjustAndExtendResults := by
  unfold Obligations.AdjustAndExtendResults
  refine ⟨?daa, ?das, ?aaa, ?aas, fun n hn => ?aam, fun n => ?aad, ?cbw, ?cwd⟩
  case daa =>
    refine runsTo_of (fun _ _ => rfl) nofun fun ins u hu => ?_
    intro low high
    rw [← ite_add_eq low, ← ite_add_eq high, ← hu]
    exact decimalAdjust_result u _ high low
  case das =>
    refine runsTo_of (fun _ _ => rfl) nofun fun ins u hu => ?_
    intro low high
    rw [← ite_sub_eq low, ← ite_sub_eq high, ← hu]
    exact decimalAdjust_result u _ high low
  case aaa =>
    refine runsTo_of (fun _ _ => rfl) nofun fun ins u hu => ?_
    intro low
    rw [← ite_add_eq low, ← ite_add_eq low, ← hu]
    exact asciiAdjust_result u low _ _
  case aas =>
    refine runsTo_of (fun _ _ => rfl) nofun fun ins u hu => ?_
    intro low
    rw [← ite_sub_eq low, ← ite_sub_eq low, ← hu]
    exact asciiAdjust_result u low _ _
  case aam =>
    refine runsTo_of (fun _ _ => rfl) nofun fun ins u hu => ?_
    obtain ⟨hal, hah, hflags⟩ := aamBody_result hn ins u
    exact ⟨hah ▸ BitVec.toNat_udiv, hal ▸ BitVec.toNat_umod, hu ▸ hflags⟩
  case aad =>
    refine runsTo_of (fun _ _ => rfl) nofun fun ins u hu => ?_
    obtain ⟨hal, hflags⟩ := aadBody_result n ins u
    have hvalue : (u.getR8 .al + u.getR8 .ah * n).toNat =
        ((u.getR8 .al).toNat + (u.getR8 .ah).toNat * n.toNat) % 256 := by
      rw [BitVec.toNat_add, BitVec.toNat_mul, Nat.add_mod_mod]
    exact ⟨hal ▸ hvalue, hu ▸ hflags⟩
  case cbw => exact runs_of (fun _ _ => rfl) nofun fun ins u => rfl
  case cwd => exact runs_of (fun _ _ => rfl) nofun fun ins u => rfl
end

section
/-! PROOFS. The frames of the multiplications, divisions, adjustments and sign extensions. -/

namespace Sys2Proof.Machine

/-! ### What one more operation keeps -/

theorem Footprint.le_join_right (a b : Footprint) : b.le (a.join b) := by
  simp +contextual [Footprint.le, Footprint.join]

theorem szp_sameControl {w : Nat} (r : BitVec w) (f : Flags) : (szp r f).SameControl f := ⟨rfl, rfl, rfl⟩

section
variable {s t : State} {fp : Footprint} (h : Keeps s t fp)
include h

/-- A word register that the footprint has. -/
theorem Keeps.setR16 {r : Reg16} (hr : r ∈ fp.words) (v : Word) : Keeps s (t.setR16 r v) fp :=
  h.comp ((keeps_setR16 t r v).mono (by simpa [Footprint.le] using hr))

/-- A byte register that the footprint has, or of whose word it has both halves. -/
theorem Keeps.setR8 {r : Reg8} (hr : r ∈ fp.halves ∨ Reg8.whole r ∈ fp.words) (v : Byte) : Keeps s (t.setR8 r v) fp :=
  h.comp ((keeps_setR8 t r v).mono (by simpa [Footprint.le] using hr))

/-- New flags that differ in status flags only. -/
theorem Keeps.setStatusFlags (hfp : statusFlags ⊆ fp.flags) {f : Flags}
    (hf : f.SameControl t.flags := by exact ⟨rfl, rfl, rfl⟩) : Keeps s (t.setFlags f) fp :=
  h.setFlags fun _ hn => hf.get fun hm => hn (hfp hm)

/-- Drawn flags are status flags. -/
theorem Keeps.drawFlags (hfp : statusFlags ⊆ fp.flags) (ns : List StatusFlag) : Keeps s (t.drawFlags ns) fp := by
  have hstatus : ∀ n : StatusFlag, n.name ∈ statusFlags := by intro n; cases n <;> decide
  refine h.comp ((keeps_drawFlags t ns).mono ?_)
  simp only [Footprint.le, List.not_mem_nil, false_implies, implies_true, true_and, and_true]
  intro n hn
  obtain ⟨m, -, rfl⟩ := List.mem_map.mp hn
  exact hfp (hstatus m)

/-- The flags of a product are status flags. -/
theorem Keeps.productFlags (hfp : statusFlags ⊆ fp.flags) (high : Bool) : Keeps s (t.productFlags high) fp :=
  (h.setStatusFlags hfp).drawFlags hfp _

end

/-! ### What each rule keeps -/

section
variable (ins : Ins) (s : State)

theorem keeps_storeBytes (q m : Byte) : Keeps s (s.storeBytes q m) { words := [.ax], flags := statusFlags } :=
  (((Keeps.refl s _).setR8 (by decide) _).setR8 (by decide) _).drawFlags (by decide) _

theorem keeps_storeWords (q m : Word) : Keeps s (s.storeWords q m) { words := [.ax, .dx], flags := statusFlags } :=
  (((Keeps.refl s _).setR16 (by decide) _).setR16 (by decide) _).drawFlags (by decide) _

/-- Reading an operand moves neither the stack nor the error mode. -/
theorem divideErrorFootprint_read {w : Nat} (l : Loc w) :
    divideErrorFootprint (s.read l).2 = divideErrorFootprint s := by
  simp only [divideErrorFootprint, entryFootprint, State.read_params, State.read_ss, State.read_sp]

/-- A division changes what a divide error changes, or what storing the quotient and the remainder does. -/
theorem keeps_endDivision {α : Type} {w : Nat} (l : Loc w) {store : State → α → α → State} {fp : Footprint}
    (hstore : ∀ t q m, Keeps t (store t q m) fp) (r : Except DivCause (α × α)) :
    Keeps s ((s.read l).2.endDivision ins store r) (fp.join (divideErrorFootprint s)) := by
  refine (keeps_read s l _).comp ?_
  rw [← divideErrorFootprint_read s l]
  cases r with
  | error cause => exact (keeps_divideError _ cause ins).mono (Footprint.le_join_right _ _)
  | ok p => exact (hstore _ p.1 p.2).mono (Footprint.le_join_left _ _)

/-- What DAA and DAS end with (R513, R514). -/
theorem keeps_decimalAdjust (r : Byte) (high low : Bool) :
    Keeps s (((s.setR8 .al r).setFlags (szp r { s.flags with CF := high, AF := low })).drawFlag .OF)
      { halves := [.al], flags := statusFlags } :=
  (((Keeps.refl s _).setR8 (by decide) r).setStatusFlags (by decide)).drawFlags (by decide) [.OF]

/-- What AAA and AAS end with (R515, R516). -/
theorem keeps_asciiAdjust (adjust : Bool) (al ah : Byte) :
    let u := if adjust then (s.setR8 .al al).setR8 .ah ah else s
    let v := u.setR8 .al (u.getR8 .al &&& 0x0F#8)
    Keeps s ((v.setFlags { v.flags with AF := adjust, CF := adjust }).drawFlags [.OF, .SF, .ZF, .PF])
      { words := [.ax], flags := statusFlags } := by
  intro u v
  have hu : Keeps s u { words := [.ax], flags := statusFlags } := by
    cases adjust
    · exact Keeps.refl s _
    · exact ((Keeps.refl s _).setR8 (by decide) al).setR8 (by decide) ah
  have hv : Keeps s v { words := [.ax], flags := statusFlags } := hu.setR8 (by decide) _
  exact (hv.setStatusFlags (by decide)).drawFlags (by decide) _

/-- What AAM and AAD end with (R517, R518). -/
theorem keeps_baseAdjust {s u : State} (h : Keeps s u { words := [.ax], flags := statusFlags }) (r : Byte) :
    Keeps s ((u.setFlags (szp r u.flags)).drawFlags [.OF, .AF, .CF]) { words := [.ax], flags := statusFlags } :=
  (h.setStatusFlags (by decide) (szp_sameControl r u.flags)).drawFlags (by decide) _

theorem keeps_aamBody (n : Byte) :
    Keeps s (aamBody n ins s) (Footprint.join { words := [.ax], flags := statusFlags } (divideErrorFootprint s)) := by
  unfold aamBody
  split
  · exact (keeps_divideError s _ ins).mono (Footprint.le_join_right _ _)
  · exact (keeps_baseAdjust (((Keeps.refl s _).setR8 (by decide) _).setR8 (by decide) _) _).mono
      (Footprint.le_join_left _ _)

end

end Sys2Proof.Machine

open Sys2Proof Sys2Proof.Machine

/-- Settles O52: each rule writes its result registers and status flags, or ends in a divide error. -/
theorem multiplyDivideAdjustFrame : Obligations.MultiplyDivideAdjustFrame := by
  unfold Obligations.MultiplyDivideAdjustFrame
  refine ⟨fun e => ⟨?mulByte, ?imulByte, ?divByte, ?idivByte⟩, fun e => ⟨?mulWord, ?imulWord, ?divWord, ?idivWord⟩,
    ?daa, ?das, ?aaa, ?aas, fun n => ⟨?aam, ?aad⟩, ?cbw, ?cwd⟩
  case mulByte | imulByte =>
    exact frame_of (fun _ _ => rfl) fun ins u =>
      (((Keeps.refl u _).read _).setR16 (by decide) _).productFlags (by decide) _
  case mulWord | imulWord =>
    exact frame_of (fun _ _ => rfl) fun ins u =>
      ((((Keeps.refl u _).read _).setR16 (by decide) _).setR16 (by decide) _).productFlags (by decide) _
  case divByte =>
    exact frame_of (fun _ _ => rfl) fun ins u =>
      divBody_eb ins u e ▸ keeps_endDivision ins u _ (fun t _ _ => keeps_storeBytes t _ _) _
  case idivByte =>
    exact frame_of (fun _ _ => rfl) fun ins u =>
      idivBody_eb ins u e ▸ keeps_endDivision ins u _ (fun t _ _ => keeps_storeBytes t _ _) _
  case divWord =>
    exact frame_of (fun _ _ => rfl) fun ins u =>
      divBody_ew ins u e ▸ keeps_endDivision ins u _ (fun t _ _ => keeps_storeWords t _ _) _
  case idivWord =>
    exact frame_of (fun _ _ => rfl) fun ins u =>
      idivBody_ew ins u e ▸ keeps_endDivision ins u _ (fun t _ _ => keeps_storeWords t _ _) _
  case daa | das => exact frame_of (fun _ _ => rfl) fun ins u => keeps_decimalAdjust u _ _ _
  case aaa | aas => exact frame_of (fun _ _ => rfl) fun ins u => keeps_asciiAdjust u _ _ _
  case aam => exact frame_of (fun _ _ => rfl) fun ins u => keeps_aamBody ins u n
  case aad => exact frame_of (fun _ _ => rfl) fun ins u =>
      keeps_baseAdjust (((Keeps.refl u _).setR8 (by decide) _).setR8 (by decide) _) _
  case cbw => exact frame_of (fun _ _ => rfl) fun ins u => keeps_setR16 u .ax _
  case cwd => exact frame_of (fun _ _ => rfl) fun ins u => keeps_setR16 u .dx _
end

section
/-! PROOFS. The one-bit steps of R607 to R613 repeated: each is one rotation or shift by the count. -/

namespace Sys2Proof.Machine

/-! ### A one-bit step repeated -/

section
variable {w : Nat} {step : BitVec w → Bool → BitVec w × Bool}

/-- The last of the repeated steps by itself. -/
theorem shiftTimes_succ (n : Nat) (v : BitVec w) (c : Bool) :
    shiftTimes step (n + 1) v c = step (shiftTimes step n v c).1 (shiftTimes step n v c).2 := by
  induction n generalizing v c with
  | zero => rfl
  | succ n ih => exact ih (step v c).1 (step v c).2

/-- A family of operations whose counts add up, and whose operation for a count of 1 is what the step does to a part of
value and carry: the repeated step does the operation for the whole count to it. -/
theorem shiftTimes_eq {α : Type} (part : BitVec w × Bool → α) {move : α → Nat → α}
    (hzero : ∀ x, move x 0 = x) (hadd : ∀ x m n, move x (m + n) = move (move x m) n)
    (hstep : ∀ v c, part (step v c) = move (part (v, c)) 1) (n : Nat) (v : BitVec w) (c : Bool) :
    part (shiftTimes step n v c) = move (part (v, c)) n := by
  induction n generalizing v c with
  | zero => exact (hzero _).symm
  | succ n ih => rw [shiftTimes, ih, hstep, ← hadd, Nat.add_comm]

/-- The carry of the last step, where a step's carry is a bit of the value it starts from. -/
theorem shiftTimes_carry_of_old (out : BitVec w → Bool) (h : ∀ v c, (step v c).2 = out v) {n : Nat} (hn : 0 < n)
    (v : BitVec w) (c : Bool) : (shiftTimes step n v c).2 = out (shiftTimes step (n - 1) v c).1 := by
  obtain ⟨m, rfl⟩ := Nat.exists_eq_add_of_lt hn
  rw [Nat.zero_add, shiftTimes_succ, h, Nat.add_sub_cancel]

/-- The carry of the last step, where a step's carry is a bit of the value it leaves. -/
theorem shiftTimes_carry_of_new (out : BitVec w → Bool) (h : ∀ v c, (step v c).2 = out (step v c).1) {n : Nat}
    (hn : 0 < n) (v : BitVec w) (c : Bool) : (shiftTimes step n v c).2 = out (shiftTimes step n v c).1 := by
  obtain ⟨m, rfl⟩ := Nat.exists_eq_add_of_lt hn
  rw [Nat.zero_add, shiftTimes_succ, h]

end

/-! ### Rotations as bits -/

section
variable {w : Nat} (x : BitVec w)

theorem rotateLeft_zero : x.rotateLeft 0 = x := by
  refine BitVec.eq_of_getMsbD_eq fun i hi => ?_
  rw [BitVec.getMsbD_rotateLeft, Nat.zero_add, Nat.mod_eq_of_lt hi, decide_eq_true hi, Bool.true_and]

theorem rotateLeft_add (m n : Nat) : x.rotateLeft (m + n) = (x.rotateLeft m).rotateLeft n := by
  refine BitVec.eq_of_getMsbD_eq fun i hi => ?_
  have hlt : (n + i) % w < w := Nat.mod_lt _ (by omega)
  simp only [BitVec.getMsbD_rotateLeft, hi, hlt, decide_true, Bool.true_and, Nat.add_mod_mod, Nat.add_assoc]

/-- Rotating right moves every bit down, around the width. -/
theorem getLsbD_rotateRight_mod (r : Nat) {i : Nat} (hi : i < w) :
    (x.rotateRight r).getLsbD i = x.getLsbD ((r + i) % w) := by
  have hr := Nat.mod_lt r (show w > 0 by omega)
  rw [BitVec.getLsbD_rotateRight, ← Nat.mod_add_mod, decide_eq_true hi, Bool.true_and, Bool.cond_decide]
  generalize r % w = k at hr ⊢
  split
  · rw [Nat.mod_eq_of_lt (by omega)]
  · rw [Nat.mod_eq_sub_mod (by omega), Nat.mod_eq_of_lt (by omega), show i - (w - k) = k + i - w by omega]

theorem rotateRight_zero : x.rotateRight 0 = x := by
  refine BitVec.eq_of_getLsbD_eq fun i hi => ?_
  rw [getLsbD_rotateRight_mod x 0 hi, Nat.zero_add, Nat.mod_eq_of_lt hi]

theorem rotateRight_add (m n : Nat) : x.rotateRight (m + n) = (x.rotateRight m).rotateRight n := by
  refine BitVec.eq_of_getLsbD_eq fun i hi => ?_
  have hlt : (n + i) % w < w := Nat.mod_lt _ (by omega)
  rw [getLsbD_rotateRight_mod _ _ hi, getLsbD_rotateRight_mod _ _ hi, getLsbD_rotateRight_mod _ _ hlt,
    Nat.add_mod_mod, Nat.add_assoc]

end

/-! ### The one-bit steps as bits -/

section
variable {w : Nat} (v : BitVec w) (b : Bool) {i : Nat} (hi : i < w)
include hi

/-- A left step moves every bit up one place and puts a bit into bit 0. -/
theorem getLsbD_leftStep :
    (v <<< 1 ||| bottomBit w b).getLsbD i = if i = 0 then b else v.getLsbD (i - 1) := by
  simp only [bottomBit, BitVec.getLsbD_or, BitVec.getLsbD_shiftLeft, BitVec.getLsbD_setWidth, BitVec.getLsbD_ofBool, hi]
  by_cases h : i = 0 <;> simp [h]

/-- A right step moves every bit down one place and puts a bit into the top one. -/
theorem getLsbD_rightStep :
    (v >>> 1 ||| topBit w b).getLsbD i = if i = w - 1 then b else v.getLsbD (1 + i) := by
  simp only [topBit, bottomBit, BitVec.getLsbD_or, BitVec.getLsbD_ushiftRight, BitVec.getLsbD_shiftLeft,
    BitVec.getLsbD_setWidth, BitVec.getLsbD_ofBool, hi]
  by_cases h : i = w - 1
  · have hend : v.getLsbD (1 + i) = false := BitVec.getLsbD_of_ge _ _ (by omega)
    simp [hend, ← h, show 0 < w by omega]
  · simp [h, show i < w - 1 by omega]

end

/-! ### Each step as a rotation or shift by one -/

section
variable {w : Nat} (hw : 0 < w) (v : BitVec w) (c : Bool)
include hw

theorem rolStep_fst : (rolStep w v c).1 = v.rotateLeft 1 := by
  refine BitVec.eq_of_getLsbD_eq fun i hi => ?_
  rw [rolStep, getLsbD_leftStep v v.msb hi, BitVec.getLsbD_rotateLeft, BitVec.msb_eq_getLsbD_last]
  obtain rfl | hw1 : w = 1 ∨ 1 < w := by omega
  · simp [show i = 0 by omega]
  · by_cases h : i = 0 <;> simp [Nat.mod_eq_of_lt hw1, h, hi]

theorem rorStep_fst : (rorStep w v c).1 = v.rotateRight 1 := by
  refine BitVec.eq_of_getLsbD_eq fun i hi => ?_
  rw [rorStep, getLsbD_rightStep v _ hi, getLsbD_rotateRight_mod v 1 hi]
  split
  · next h => rw [h, Nat.add_sub_cancel' hw, Nat.mod_self]
  · rw [Nat.mod_eq_of_lt (by omega)]

/-- RCL rotates the carry and the value as one value of `w + 1` bits (R609). -/
theorem cons_rclStep : BitVec.cons (rclStep w v c).2 (rclStep w v c).1 = (BitVec.cons c v).rotateLeft 1 := by
  refine BitVec.eq_of_getLsbD_eq fun i hi => ?_
  rw [BitVec.getLsbD_cons, BitVec.getLsbD_rotateLeft, Nat.mod_eq_of_lt (Nat.succ_lt_succ hw), BitVec.getLsbD_cons,
    BitVec.getLsbD_cons, rclStep, BitVec.msb_eq_getLsbD_last]
  by_cases htop : i = w
  · simp [htop, hw.ne', show w - 1 ≠ w by omega]
  · rw [if_neg htop, getLsbD_leftStep v c (by omega)]
    by_cases h : i = 0
    · simp [h]
    · simp [h, hi, show i - 1 ≠ w by omega]

/-- RCR rotates the carry and the value as one value of `w + 1` bits (R610). -/
theorem cons_rcrStep : BitVec.cons (rcrStep w v c).2 (rcrStep w v c).1 = (BitVec.cons c v).rotateRight 1 := by
  refine BitVec.eq_of_getLsbD_eq fun i hi => ?_
  rw [BitVec.getLsbD_cons, getLsbD_rotateRight_mod _ 1 hi, BitVec.getLsbD_cons, rcrStep]
  by_cases htop : i = w
  · rw [if_pos htop, htop, Nat.add_comm 1 w, Nat.mod_self, if_neg hw.ne]
  · rw [if_neg htop, getLsbD_rightStep v c (by omega), Nat.mod_eq_of_lt (by omega)]
    congr 1
    rw [eq_iff_iff]
    omega

/-- SAR keeps the top bit (R613). -/
theorem sarStep_fst : (sarStep w v c).1 = v.sshiftRight 1 := by
  refine BitVec.eq_of_getLsbD_eq fun i hi => ?_
  rw [sarStep, getLsbD_rightStep v _ hi, BitVec.getLsbD_sshiftRight, decide_eq_false (by omega : ¬ w ≤ i)]
  by_cases h : i = w - 1
  · simp [h, show ¬ 1 + (w - 1) < w by omega]
  · simp [h, show 1 + i < w by omega]

/-- The bit ROL moves into the carry is the one it moves into bit 0 (R607). -/
theorem rolStep_snd : (rolStep w v c).2 = (rolStep w v c).1.getLsbD 0 := by
  rw [rolStep, getLsbD_leftStep v _ hw, if_pos rfl]

/-- The bit ROR moves into the carry is the one it moves into the top bit (R608). -/
theorem rorStep_snd : (rorStep w v c).2 = (rorStep w v c).1.msb := by
  rw [rorStep, BitVec.msb_eq_getLsbD_last, getLsbD_rightStep v _ (by omega), if_pos rfl]

end

/-! ### The steps repeated -/

section
variable {w : Nat} (v : BitVec w) (c : Bool) (n : Nat)

theorem shiftTimes_shlStep : (shiftTimes (shlStep w) n v c).1 = v <<< n :=
  shiftTimes_eq Prod.fst BitVec.shiftLeft_zero BitVec.shiftLeft_add (fun _ _ => rfl) n v c

theorem shiftTimes_shrStep : (shiftTimes (shrStep w) n v c).1 = v >>> n :=
  shiftTimes_eq Prod.fst BitVec.ushiftRight_zero BitVec.shiftRight_add (fun _ _ => rfl) n v c

variable (hw : 0 < w)
include hw

theorem shiftTimes_rolStep : (shiftTimes (rolStep w) n v c).1 = v.rotateLeft n :=
  shiftTimes_eq Prod.fst rotateLeft_zero rotateLeft_add (rolStep_fst hw) n v c

theorem shiftTimes_rorStep : (shiftTimes (rorStep w) n v c).1 = v.rotateRight n :=
  shiftTimes_eq Prod.fst rotateRight_zero rotateRight_add (rorStep_fst hw) n v c

theorem shiftTimes_rclStep :
    let r := shiftTimes (rclStep w) n v c
    BitVec.cons r.2 r.1 = (BitVec.cons c v).rotateLeft n :=
  shiftTimes_eq (fun r => BitVec.cons r.2 r.1) rotateLeft_zero rotateLeft_add (cons_rclStep hw) n v c

theorem shiftTimes_rcrStep :
    let r := shiftTimes (rcrStep w) n v c
    BitVec.cons r.2 r.1 = (BitVec.cons c v).rotateRight n :=
  shiftTimes_eq (fun r => BitVec.cons r.2 r.1) rotateRight_zero rotateRight_add (cons_rcrStep hw) n v c

theorem shiftTimes_sarStep : (shiftTimes (sarStep w) n v c).1 = v.sshiftRight n :=
  shiftTimes_eq Prod.fst (fun _ => BitVec.sshiftRight_zero) (fun _ _ _ => BitVec.sshiftRight_add) (sarStep_fst hw) n v c

end

end Sys2Proof.Machine

open Sys2Proof Sys2Proof.Machine

/-- Settles O33: each step moves the value, for RCL and RCR with the carry, by one place, and the counts add up. -/
theorem shiftClosedForms : Obligations.ShiftClosedForms := by
  unfold Obligations.ShiftClosedForms
  intro w v c n hw
  refine ⟨shiftTimes_rolStep v c n hw, shiftTimes_rorStep v c n hw, shiftTimes_rclStep v c n hw,
    shiftTimes_rcrStep v c n hw, shiftTimes_shlStep v c n, shiftTimes_shrStep v c n, shiftTimes_sarStep v c n hw,
    fun hn => ⟨?rol, ?ror, ?shl, ?shr, ?sar⟩⟩
  case rol =>
    rw [← shiftTimes_rolStep v c n hw]
    exact shiftTimes_carry_of_new (·.getLsbD 0) (rolStep_snd hw) hn v c
  case ror =>
    rw [← shiftTimes_rorStep v c n hw]
    exact shiftTimes_carry_of_new BitVec.msb (rorStep_snd hw) hn v c
  case shl =>
    rw [← shiftTimes_shlStep v c (n - 1)]
    exact shiftTimes_carry_of_old BitVec.msb (fun _ _ => rfl) hn v c
  case shr =>
    rw [← shiftTimes_shrStep v c (n - 1)]
    exact shiftTimes_carry_of_old (·.getLsbD 0) (fun _ _ => rfl) hn v c
  case sar =>
    rw [← shiftTimes_sarStep v c (n - 1) hw]
    exact shiftTimes_carry_of_old (·.getLsbD 0) (fun _ _ => rfl) hn v c
end

section
/-! PROOFS. The results of AND, OR, XOR and TEST (R601 to R604), of the rotates and of the shifts (R606 to R613): each
is one of three shared shapes. -/

namespace Sys2Proof.Machine

section
variable (ins : Ins) (s : State)

/-! ### Logic -/

/-- CF and OF clear, SF, ZF and PF of the result, AF drawn (R454). -/
theorem State.logicResult_eq {w : Nat} (r : BitVec w) :
    s.logicResult r = (s.setFlags { s.flags with
      CF := false, OF := false, SF := r.msb, ZF := decide (r = 0#w), PF := parity r }).drawFlag .AF := rfl

theorem logicStore_eq (op : ∀ w : Nat, BitVec w → BitVec w → BitVec w) (f : AluForm) :
    logicStore op f ins s =
      let p := aluPair ins s f
      let a := s.read p.dst
      let b := a.2.read p.src
      let r := op p.w a.1 b.1
      let x := { s.flags with CF := false, OF := false, SF := r.msb, ZF := decide (r = 0#p.w), PF := parity r }
      ((b.2.setFlags x).drawFlag .AF).write p.dst r := by
  simp only [logicStore, State.logicResult_eq, State.read_flags]

theorem testBody_eq (f : TestForm) :
    testBody f ins s =
      let p := testPair ins s f
      let a := s.read p.dst
      let b := a.2.read p.src
      let r := a.1 &&& b.1
      let x := { s.flags with CF := false, OF := false, SF := r.msb, ZF := decide (r = 0#p.w), PF := parity r }
      (b.2.setFlags x).drawFlag .AF := by
  simp only [testBody, State.logicResult_eq, State.read_flags]

/-! ### Rotates and shifts -/

/-- CF and then OF: written for a count of 1, OF drawn for more (R606). -/
theorem State.shiftOverflow_setFlags (x : Flags) (n : Byte) (overflow : Bool) :
    (s.setFlags x).shiftOverflow n overflow =
      if n = 1#8 then s.setFlags { x with OF := overflow } else (s.setFlags x).drawFlag .OF := rfl

variable (step : ∀ w : Nat, BitVec w → Bool → BitVec w × Bool)
  (overflow : ∀ w : Nat, BitVec w → BitVec w → Bool → Bool) (f : ShiftForm)

theorem rotateBody_eq :
    rotateBody step overflow f ins s =
      let n := shiftCount s f
      if n = 0#8 then s
      else
        let o := shiftOperand ins s f
        let a := s.read o.loc
        let r := shiftTimes (step o.w) n.toNat a.1 s.flags.CF
        let x := { s.flags with CF := r.2 }
        let t := if n = 1#8 then a.2.setFlags { x with OF := overflow o.w a.1 r.1 r.2 }
          else (a.2.setFlags x).drawFlag .OF
        t.write o.loc r.1 := by
  simp only [rotateBody, State.shiftOverflow_setFlags, State.read_flags]

theorem shiftBody_eq :
    shiftBody step overflow f ins s =
      let n := shiftCount s f
      if n = 0#8 then s
      else
        let o := shiftOperand ins s f
        let a := s.read o.loc
        let r := shiftTimes (step o.w) n.toNat a.1 s.flags.CF
        let x := { s.flags with CF := r.2 }
        let t := if n = 1#8 then a.2.setFlags { x with OF := overflow o.w a.1 r.1 r.2 }
          else (a.2.setFlags x).drawFlag .OF
        ((t.setFlags { t.flags with SF := r.1.msb, ZF := decide (r.1 = 0#o.w), PF := parity r.1 }).drawFlag .AF).write
          o.loc r.1 := by
  simp only [shiftBody, State.shiftOverflow_setFlags, State.read_flags, szp]

end

end Sys2Proof.Machine

open Sys2Proof Sys2Proof.Machine

/-- Settles O32: reading the operands changes no flag, so the flags of R454 are put into those of the start. -/
theorem logicResults : Obligations.LogicResults := by
  unfold Obligations.LogicResults
  refine ⟨fun f => ⟨?and, ?or, ?xor⟩, fun f => ?test⟩
  case and | or | xor => exact runs_of (fun _ _ => rfl) nofun fun ins u => logicStore_eq ins u _ f
  case test => exact runs_of (fun _ _ => rfl) nofun fun ins u => testBody_eq ins u f

/-- Settles O34: the common parts of R606, with the one-bit step and the OF of each rule. -/
theorem rotateAndShiftResults : Obligations.RotateAndShiftResults := by
  unfold Obligations.RotateAndShiftResults
  refine ⟨fun u e g => ⟨rfl, rfl, rfl, rfl⟩, fun f => ⟨?rol, ?ror, ?rcl, ?rcr, ?shl, ?shr, ?sar⟩⟩
  case rol => exact runs_of (fun _ _ => rfl) nofun fun ins u => rotateBody_eq ins u rolStep leftOverflow f
  case ror => exact runs_of (fun _ _ => rfl) nofun fun ins u => rotateBody_eq ins u rorStep rightOverflow f
  case rcl => exact runs_of (fun _ _ => rfl) nofun fun ins u => rotateBody_eq ins u rclStep leftOverflow f
  case rcr => exact runs_of (fun _ _ => rfl) nofun fun ins u => rotateBody_eq ins u rcrStep rightOverflow f
  case shl => exact runs_of (fun _ _ => rfl) nofun fun ins u => shiftBody_eq ins u shlStep leftOverflow f
  case shr => exact runs_of (fun _ _ => rfl) nofun fun ins u => shiftBody_eq ins u shrStep shrOverflow f
  case sar => exact runs_of (fun _ _ => rfl) nofun fun ins u => shiftBody_eq ins u sarStep sarOverflow f
end

section
/-! PROOFS. The frames of the logic instructions, the rotates and the shifts. -/

namespace Sys2Proof.Machine

/-! ### What one more operation keeps -/

section
variable {s t : State} {fp : Footprint} (h : Keeps s t fp)
include h

/-- One drawn flag that the footprint has. -/
theorem Keeps.drawFlag {n : StatusFlag} (hn : n.name ∈ fp.flags) : Keeps s (t.drawFlag n) fp :=
  h.comp ((keeps_drawFlag t n).mono (by simpa [Footprint.le] using hn))

/-- One written flag that the footprint has. -/
theorem Keeps.putFlag {n : StatusFlag} (hn : n.name ∈ fp.flags) (b : Bool) :
    Keeps s (t.setFlags (t.flags.put n b)) fp :=
  h.setFlags fun _ hm => Flags.get_put_ne _ n b fun heq => hm (heq ▸ hn)

/-- Whichever of two states a test picks. -/
theorem Keeps.ite {u : State} (k : Keeps s u fp) (c : Prop) [Decidable c] : Keeps s (if c then t else u) fp := by
  split
  · exact h
  · exact k

/-- OF is written or drawn (R606). -/
theorem Keeps.shiftOverflow (hn : .OF ∈ fp.flags) (n : Byte) (overflow : Bool) :
    Keeps s (t.shiftOverflow n overflow) fp :=
  (h.putFlag (n := .OF) hn overflow).ite (h.drawFlag (n := .OF) hn) _

/-- CF is written, and OF written or drawn (R606). -/
theorem Keeps.carryAndOverflow (hfp : [.CF, .OF] ⊆ fp.flags) (carry : Bool) (n : Byte) (overflow : Bool) :
    Keeps s ((t.setFlags { t.flags with CF := carry }).shiftOverflow n overflow) fp :=
  (h.putFlag (n := .CF) (hfp (by decide)) carry).shiftOverflow (hfp (by decide)) n overflow

/-- The flags of a logic result are status flags (R454). -/
theorem Keeps.logicResult (hfp : statusFlags ⊆ fp.flags) {w : Nat} (r : BitVec w) : Keeps s (t.logicResult r) fp :=
  (h.setStatusFlags hfp (logicFlags_sameControl r t.flags)).drawFlags hfp [.AF]

end

/-! ### What each shared shape keeps -/

section
variable (ins : Ins) (s : State)

theorem keeps_logicStore (op : ∀ w : Nat, BitVec w → BitVec w → BitVec w) (f : AluForm) :
    Keeps s (logicStore op f ins s)
      ((writeFootprint s.params.wordWrap (aluPair ins s f).dst).join { flags := statusFlags }) :=
  ((((Keeps.refl s _).read _).read _).logicResult (List.subset_append_right _ _) _).write (Footprint.le_join_left _ _) _

theorem keeps_testBody (f : TestForm) : Keeps s (testBody f ins s) { flags := statusFlags } :=
  (((Keeps.refl s _).read _).read _).logicResult (List.Subset.refl _) _

variable (step : ∀ w : Nat, BitVec w → Bool → BitVec w × Bool)
  (overflow : ∀ w : Nat, BitVec w → BitVec w → Bool → Bool) (f : ShiftForm)

theorem keeps_rotateBody :
    Keeps s (rotateBody step overflow f ins s)
      ((writeFootprint s.params.wordWrap (shiftOperand ins s f).loc).join { flags := [.CF, .OF] }) :=
  (Keeps.refl s _).ite ((((Keeps.refl s _).read _).carryAndOverflow (List.subset_append_right _ _) _ _ _).write
    (Footprint.le_join_left _ _) _) _

theorem keeps_shiftBody :
    Keeps s (shiftBody step overflow f ins s)
      ((writeFootprint s.params.wordWrap (shiftOperand ins s f).loc).join { flags := statusFlags }) := by
  have hstatus : statusFlags ⊆
      ((writeFootprint s.params.wordWrap (shiftOperand ins s f).loc).join { flags := statusFlags }).flags :=
    List.subset_append_right _ _
  have hstart := ((Keeps.refl s _).read (shiftOperand ins s f).loc).carryAndOverflow
    (List.Subset.trans (show _ ⊆ statusFlags by decide) hstatus)
  exact (Keeps.refl s _).ite ((((hstart _ _ _).setStatusFlags hstatus (szp_sameControl _ _)).drawFlags hstatus
    [.AF]).write (Footprint.le_join_left _ _) _) _

end

end Sys2Proof.Machine

open Sys2Proof Sys2Proof.Machine

/-- Settles O51: the three shared shapes write their operand and the flags named. -/
theorem logicAndShiftFrame : Obligations.LogicAndShiftFrame := by
  unfold Obligations.LogicAndShiftFrame
  refine ⟨fun f => ⟨?and, ?or, ?xor⟩, fun f => ?test, fun f => ⟨?rol, ?ror, ?rcl, ?rcr, ?shl, ?shr, ?sar⟩⟩
  case and | or | xor => exact frame_of (fun _ _ => rfl) fun ins u => keeps_logicStore ins u _ f
  case test => exact frame_of (fun _ _ => rfl) fun ins u => keeps_testBody ins u f
  case rol | ror | rcl | rcr => exact frame_of (fun _ _ => rfl) fun ins u => keeps_rotateBody ins u _ _ f
  case shl | shr | sar => exact frame_of (fun _ _ => rfl) fun ins u => keeps_shiftBody ins u _ _ f
end

section
/-! PROOFS. The results of the data transfer and stack instructions (R701 to R713). -/

namespace Sys2Proof.Machine

/-! ### MOV -/

/-- Whether an operand can be written and read back depends on the parameters only (R205). -/
theorem State.holdsLoc_congr {s t : State} (h : t.params = s.params) {w : Nat} (l : Loc w) :
    t.holdsLoc l ↔ s.holdsLoc l := by
  cases l <;> simp only [State.holdsLoc, State.holdsWord, State.holds, h]

section
variable (ins : Ins) (s : State)

/-- MOV moves a value without touching a flag (R701). -/
theorem movBody_flags (f : MovForm) : (movBody f ins s).flags = s.flags := by
  rw [movBody, State.write_flags, State.read_flags]

/-- The destination of a MOV reads back as the source did (R701, R423, R424). -/
theorem read_movBody (f : MovForm) (h : s.holdsLoc (movPair ins s f).dst) :
    ((movBody f ins s).read (movPair ins s f).dst).1 = (s.read (movPair ins s f).src).1 :=
  State.read_write_same _ _ ((State.holdsLoc_congr (State.read_params s _) _).mpr h)

/-! ### The stack -/

/-- Both accesses of a push use the lowered SP (R430). -/
theorem State.push16_eq (v : Word) : s.push16 v = (s.setR16 .sp (s.sp - 2)).segWrite16 s.ss (s.sp - 2) v := by
  rw [State.push16, State.setR16_ss, State.setR16_sp_sp]

/-- Reading the slot leaves SP for the pop to raise (R431). -/
theorem State.pop16_eq : s.pop16 =
    ((s.segRead16 s.ss s.sp).1, (s.segRead16 s.ss s.sp).2.setR16 .sp (s.sp + 2)) := by
  rw [State.pop16, State.segRead16_sp]

/-- PUSH reads its operand after SP has fallen, and stores it at the lowered SP (R710). -/
theorem pushBody_eq (f : StackForm) :
    pushBody f ins s =
      let v := (s.setR16 .sp (s.sp - 2)).read (stackLoc ins s f)
      v.2.segWrite16 s.ss (s.sp - 2) v.1 := by
  simp only [pushBody, State.read_ss, State.read_sp, State.setR16_ss, State.setR16_sp_sp]

/-- PUSH SP stores the lowered SP (R710). -/
theorem pushBody_sp :
    pushBody (.r16 .sp) ins s = (s.setR16 .sp (s.sp - 2)).segWrite16 s.ss (s.sp - 2) (s.sp - 2) := by
  rw [pushBody_eq]
  rfl

end

end Sys2Proof.Machine

open Sys2Proof Sys2Proof.Machine

/-- Settles O35: an operand that can be written reads back as written, and neither access touches the flags. -/
theorem movResults : Obligations.MovResults := by
  unfold Obligations.MovResults
  refine fun f => ⟨?runs, ?result⟩
  case runs => exact runs_of (fun _ _ => rfl) nofun fun ins u => rfl
  case result => exact runsTo_of (fun _ _ => rfl) nofun fun ins u _ => ⟨movBody_flags ins u f, read_movBody ins u f⟩

/-- Settles O36: the rule of each of the eight is the one stated, by definition. -/
theorem exchangeAndLoadResults : Obligations.ExchangeAndLoadResults := by
  unfold Obligations.ExchangeAndLoadResults
  refine ⟨fun f => ?xchg, ?nop, fun g m => ⟨?lea, ?lds, ?les⟩, ?xlat, ?lahf, ?sahf⟩
  case xchg | nop | lea | lds | les | xlat | lahf | sahf => exact runs_of (fun _ _ => rfl) nofun fun ins u => rfl

/-- Settles O37: PUSH and POP of an operand, and of the flags, by what a push and a pop do with SP. -/
theorem stackResults : Obligations.StackResults := by
  unfold Obligations.StackResults
  refine ⟨fun f => ⟨?push, ?pop⟩, ?pushSp, ?pushf, ?popf⟩
  case push => exact runs_of (fun _ _ => rfl) nofun fun ins u => pushBody_eq ins u f
  case pop => exact runs_of (fun _ _ => rfl) nofun fun ins u => by rw [popBody, State.pop16_eq]
  case pushSp => exact runs_of (fun _ _ => rfl) nofun pushBody_sp
  case pushf => exact runs_of (fun _ _ => rfl) nofun fun ins u => u.push16_eq u.packed
  case popf => exact runs_of (fun _ _ => rfl) nofun fun ins u => by rw [popfBody, State.pop16_eq]
end

section
/-! PROOFS. The frames of the data transfer and stack instructions. -/

namespace Sys2Proof.Machine

/-! ### What one more operation keeps -/

section
variable {s t : State} {fp : Footprint} (h : Keeps s t fp)
include h

/-- A segment register that the footprint has. -/
theorem Keeps.setSReg {g : SReg} (hg : g ∈ fp.segs) (v : Word) : Keeps s (t.setSReg g v) fp :=
  h.comp ((keeps_setSReg t g v).mono (by simpa [Footprint.le] using hg))

/-- A pop, where the footprint has SP. -/
theorem Keeps.pop16 (hsp : .sp ∈ fp.words) : Keeps s t.pop16.2 fp :=
  h.comp ((keeps_pop16 t).mono (by simpa [Footprint.le] using hsp))

end

/-! ### What each rule keeps -/

section
variable (ins : Ins) (s : State)

theorem keeps_movBody (f : MovForm) :
    Keeps s (movBody f ins s) (writeFootprint s.params.wordWrap (movPair ins s f).dst) :=
  ((Keeps.refl s _).read _).write (Footprint.le_refl _) _

theorem keeps_xchgBody (f : XchgForm) :
    Keeps s (xchgBody f ins s) ((writeFootprint s.params.wordWrap (xchgPair ins s f).dst).join
      (writeFootprint s.params.wordWrap (xchgPair ins s f).src)) :=
  ((((Keeps.refl s _).read _).read _).write (Footprint.le_join_left _ _) _).write (Footprint.le_join_right _ _) _

/-- What LDS and LES end with: a far pointer goes into a register and a segment register (R705, R706). -/
theorem keeps_loadFar (r : Reg16) (g : SReg) (m : MemOp) :
    let x := s.readFar ins m
    Keeps s ((x.2.setR16 r x.1.1).setSReg g x.1.2) { words := [r], segs := [g] } :=
  ((keeps_readFar s ins m _).setR16 (List.mem_singleton_self r) _).setSReg (List.mem_singleton_self g) _

theorem keeps_xlatBody : Keeps s (xlatBody ins s) { halves := [.al] } :=
  (keeps_segRead8 s _ _ _).setR8 (by decide) _

theorem keeps_sahfBody : Keeps s (sahfBody ins s) { flags := [.SF, .ZF, .AF, .PF, .CF] } := by
  refine keeps_setFlags s _ fun n hn => ?_
  cases n
  case TF | IF | DF | OF => rfl
  all_goals exact absurd (by decide) hn

/-- The bytes stored are those of the slot below the old SP (R710). -/
theorem keeps_pushBody (f : StackForm) : Keeps s (pushBody f ins s) (pushFootprint s) := by
  rw [pushBody_eq]
  have hslot : (writeFootprint s.params.wordWrap (.mem16 s.ss (s.sp - 2))).le (pushFootprint s) := by
    simp [Footprint.le, writeFootprint, pushFootprint]
  exact (((Keeps.refl s _).setR16 (List.mem_singleton_self Reg16.sp) _).read _).write hslot _

theorem keeps_popBody (f : StackForm) :
    Keeps s (popBody f ins s)
      (Footprint.join { words := [.sp] } (writeFootprint s.params.wordWrap (stackLoc ins s f))) :=
  ((Keeps.refl s _).pop16 List.mem_cons_self).write (Footprint.le_join_right _ _) _

theorem keeps_popfBody :
    Keeps s (popfBody ins s) { words := [.sp], flags := statusFlags ++ [.TF, .IF, .DF] } := by
  have hall : ∀ n : FlagName, n ∈ statusFlags ++ [.TF, .IF, .DF] := by intro n; cases n <;> decide
  exact ((Keeps.refl s _).pop16 (by decide)).setFlags fun n hn => absurd (hall n) hn

end

end Sys2Proof.Machine

open Sys2Proof Sys2Proof.Machine

/-- Settles O53: each rule reads, and writes only the operands, registers, flags or stack slot it names. -/
theorem transferFrame : Obligations.TransferFrame := by
  unfold Obligations.TransferFrame
  refine ⟨fun f => ?mov, fun f => ?xchg, ?nop, fun g m => ⟨?lea, ?lds, ?les⟩, ?xlat, ?lahf, ?sahf,
    fun f => ⟨?push, ?pop⟩, ?pushf, ?popf⟩
  case mov => exact frame_of (fun _ _ => rfl) fun ins u => keeps_movBody ins u f
  case xchg => exact frame_of (fun _ _ => rfl) fun ins u => keeps_xchgBody ins u f
  case nop => exact frame_of (fun _ _ => rfl) fun ins u => Keeps.refl u _
  case lea => exact frame_of (fun _ _ => rfl) fun ins u => keeps_setR16 u g _
  case lds => exact frame_of (fun _ _ => rfl) fun ins u => keeps_loadFar ins u g .ds m
  case les => exact frame_of (fun _ _ => rfl) fun ins u => keeps_loadFar ins u g .es m
  case xlat => exact frame_of (fun _ _ => rfl) keeps_xlatBody
  case lahf => exact frame_of (fun _ _ => rfl) fun ins u => keeps_setR8 u .ah _
  case sahf => exact frame_of (fun _ _ => rfl) keeps_sahfBody
  case push => exact frame_of (fun _ _ => rfl) fun ins u => keeps_pushBody ins u f
  case pop => exact frame_of (fun _ _ => rfl) fun ins u => keeps_popBody ins u f
  case pushf => exact frame_of (fun _ _ => rfl) fun ins u => keeps_push16 u _
  case popf => exact frame_of (fun _ _ => rfl) keeps_popfBody
end

section
/-! PROOFS. The string instructions: each is the repeat driver around the iteration of its rule. Their results, the
driver, and their frames. -/

namespace Sys2Proof.Machine

/-! ### The repeat driver (R801) -/

section
variable {ins : Ins} {s : State} {iteration : State → State} (compares : Bool)

theorem repeatStep_of_rep_eq_none (h : ins.rep = none) : repeatStep ins compares iteration s = iteration s := by
  rw [repeatStep, h]

theorem repeatStep_of_cx_eq_zero (h : ins.rep ≠ none) (hc : s.cx = 0#16) :
    repeatStep ins compares iteration s = s := by
  obtain ⟨r, hr⟩ := Option.ne_none_iff_exists'.mp h
  simp only [repeatStep, hr, if_pos hc]

/-- ZF counts only where strings are compared, and then has to agree with REPE or REPNE. -/
theorem repeatHolds_iff (r : Rep) (f : Flags) :
    repeatHolds r compares f = true ↔ (compares = true → (f.ZF = true ↔ r = .repE)) := by
  cases compares <;> cases r <;> simp [repeatHolds]

/-- Around an iteration that leaves CX and ip to the driver. -/
theorem repeatStep_of_cx_ne_zero {r : Rep} (hr : ins.rep = some r) (hc : s.cx ≠ 0#16)
    (hcx : (iteration s).cx = s.cx) (hip : (iteration s).ip = s.ip) :
    let t := (iteration s).setR16 .cx (s.cx - 1)
    repeatStep ins compares iteration s =
      if s.cx ≠ 1#16 ∧ (compares = true → (t.flags.ZF = true ↔ r = .repE)) then
        t.setIp (s.ip - BitVec.ofNat 16 ins.size)
      else t := by
  have hlast : s.cx - 1 = 0#16 ↔ s.cx = 1#16 := sub_eq_zero
  simp only [repeatStep, hr, if_neg hc, hcx, State.setR16_cx_cx, State.setR16_ip, hip, repeatHolds_iff, ne_eq, hlast]

/-- The driver adds CX to what its iteration changes, where the mode repeats. -/
theorem Keeps.repeatStep {fp : Footprint} (h : Keeps s (iteration s) fp) :
    Keeps s (repeatStep ins compares iteration s) { fp with words := fp.words ++ repeatWords ins } := by
  have hone : Keeps s (iteration s) { fp with words := fp.words ++ repeatWords ins } :=
    h.mono (by simp +contextual [Footprint.le])
  unfold Machine.repeatStep
  split
  case h_1 => exact hone
  case h_2 r hr =>
    have hcx : Reg16.cx ∈ fp.words ++ repeatWords ins := by simp [repeatWords, hr]
    have hcount := hone.setR16 hcx ((iteration s).cx - 1)
    exact (Keeps.refl s _).ite ((hcount.comp (keeps_setIp _ _ _)).ite hcount _) _

end

/-! ### Index steps (R800): nothing that an iteration writes before them changes their direction -/

section
variable (s t : State) {w : Nat} (k x : Word)

theorem State.adv_congr {s t : State} (h : t.flags.DF = s.flags.DF) (k x : Word) : t.adv k x = s.adv k x := by
  rw [State.adv, h, State.adv]

@[simp] theorem State.adv_setR16 (r : Reg16) (v : Word) : (s.setR16 r v).adv k x = s.adv k x :=
  State.adv_congr (by rw [State.setR16_flags]) k x

@[simp] theorem State.adv_read (l : Loc w) : (s.read l).2.adv k x = s.adv k x :=
  State.adv_congr (by rw [State.read_flags]) k x

@[simp] theorem State.adv_write (l : Loc w) (v : BitVec w) : (s.write l v).adv k x = s.adv k x :=
  State.adv_congr (by rw [State.write_flags]) k x

@[simp] theorem State.adv_setFlags_subFlags (a b : BitVec w) (c : Bool) :
    (t.setFlags (subFlags a b c s.flags).2).adv k x = s.adv k x :=
  State.adv_congr rfl k x

@[simp] theorem State.setR8_al_cx (v : Byte) : (s.setR8 .al v).cx = s.cx := rfl

@[simp] theorem State.setR8_al_si (v : Byte) : (s.setR8 .al v).si = s.si := rfl

end

/-! ### The iterations, with the index steps of the state they start in -/

section
variable (s : State) {w : Nat} (acc src dst : Loc w) (k : Word)

theorem movsOnce_eq (hsi : ∀ t v, (State.write t dst v).si = t.si) (hdi : ∀ t v, (State.write t dst v).di = t.di) :
    movsOnce src dst k s =
      let v := s.read src
      ((v.2.write dst v.1).setR16 .si (s.adv k s.si)).setR16 .di (s.adv k s.di) := by
  simp [movsOnce, State.advSi, State.advDi, hsi, hdi]

theorem cmpsOnce_eq :
    cmpsOnce src dst k s =
      let a := s.read src
      let b := a.2.read dst
      ((b.2.setFlags (subFlags a.1 b.1 false s.flags).2).setR16 .si (s.adv k s.si)).setR16 .di (s.adv k s.di) := by
  simp [cmpsOnce, State.advSi, State.advDi]

theorem scasOnce_eq :
    scasOnce acc dst k s =
      let a := s.read acc
      let b := a.2.read dst
      (b.2.setFlags (subFlags a.1 b.1 false s.flags).2).setR16 .di (s.adv k s.di) := by
  simp [scasOnce, State.advDi]

theorem lodsOnce_eq (hsi : ∀ t v, (State.write t acc v).si = t.si) :
    lodsOnce acc src k s =
      let v := s.read src
      (v.2.write acc v.1).setR16 .si (s.adv k s.si) := by
  simp [lodsOnce, State.advSi, hsi]

theorem stosOnce_eq (hdi : ∀ t v, (State.write t dst v).di = t.di) :
    stosOnce dst acc k s =
      let v := s.read acc
      (v.2.write dst v.1).setR16 .di (s.adv k s.di) := by
  simp [stosOnce, State.advDi, hdi]

end

/-! ### The ten instructions -/

/-- Equal iterations make equal instructions. -/
theorem complete_repeatStep_congr {ps : List Prefix} {i : Instr} {s : State} {compares : Bool}
    {once rule : Ins → State → State} (h : ∀ ins u, once ins u = rule ins u) :
    complete ps i (fun ins => repeatStep ins compares (once ins)) s =
      complete ps i (fun ins => repeatStep ins compares (rule ins)) s := by
  rw [show once = rule from funext₂ h]

/-- Each string instruction is the driver around its rule as the statements write it out. -/
theorem runIn_of_stringRule {i : Instr} {rule : Ins → State → State} (h : stringRule i = some rule)
    (ps : List Prefix) (s : State) :
    runIn ps i s = complete ps i (fun ins => repeatStep ins (comparesStrings i) (rule ins)) s := by
  cases i
  case movsb | movsw =>
    obtain rfl := Option.some.inj h
    refine complete_repeatStep_congr fun ins u => movsOnce_eq u _ _ _ (fun t v => ?_) fun t v => ?_
    · simp [stringDst8, stringDst16, State.write]
    · simp [stringDst8, stringDst16, State.write]
  case cmpsb | cmpsw =>
    obtain rfl := Option.some.inj h
    exact complete_repeatStep_congr fun ins u => cmpsOnce_eq u _ _ _
  case scasb | scasw =>
    obtain rfl := Option.some.inj h
    exact complete_repeatStep_congr fun ins u => scasOnce_eq u _ _ _
  case lodsb | lodsw =>
    obtain rfl := Option.some.inj h
    exact complete_repeatStep_congr fun ins u => lodsOnce_eq u _ _ _ fun t v => rfl
  case stosb | stosw =>
    obtain rfl := Option.some.inj h
    refine complete_repeatStep_congr fun ins u => stosOnce_eq u _ _ _ fun t v => ?_
    simp [stringDst8, stringDst16, State.write]
  all_goals cases h

theorem cls_ne_esc_of_stringRule {i : Instr} {rule : Ins → State → State} (h : stringRule i = some rule) :
    i.cls ≠ .esc := by
  cases i
  case movsb | movsw | cmpsb | cmpsw | scasb | scasw | lodsb | lodsw | stosb | stosw => nofun
  all_goals cases h

/-- One iteration leaves the count and ip to the driver. -/
theorem stringRule_cx_ip {i : Instr} {rule : Ins → State → State} (h : stringRule i = some rule) (ins : Ins)
    (s : State) : (rule ins s).cx = s.cx ∧ (rule ins s).ip = s.ip := by
  cases i
  case movsb | movsw | cmpsb | cmpsw | scasb | scasw | lodsb | lodsw | stosb | stosw =>
    obtain rfl := Option.some.inj h
    simp
  all_goals cases h

/-- The size counts the bytes of the prefixes, so the rewind lands on the first of them (R801). -/
theorem start_ip_sub_size (s : State) (ps : List Prefix) (i : Instr) :
    (s.start ps i).ip - BitVec.ofNat 16 (insAt ps i s).size = s.ip := by
  simp [State.start, insAt]

/-! ### What one iteration keeps -/

section
variable (s : State) {w : Nat} (acc src dst : Loc w) (k : Word)

theorem keeps_movsOnce :
    Keeps s (movsOnce src dst k s)
      (Footprint.join { words := [.si, .di] } (writeFootprint s.params.wordWrap dst)) :=
  ((((Keeps.refl s _).read _).write (Footprint.le_join_right _ _) _).setR16 (by simp [Footprint.join]) _).setR16
    (by simp [Footprint.join]) _

theorem keeps_cmpsOnce : Keeps s (cmpsOnce src dst k s) { words := [.si, .di], flags := statusFlags } :=
  (((((Keeps.refl s _).read _).read _).setStatusFlags (List.Subset.refl _)
    (subFlags_sameControl _ _ _ _)).setR16 (by decide) _).setR16 (by decide) _

theorem keeps_scasOnce : Keeps s (scasOnce acc dst k s) { words := [.di], flags := statusFlags } :=
  ((((Keeps.refl s _).read _).read _).setStatusFlags (List.Subset.refl _)
    (subFlags_sameControl _ _ _ _)).setR16 (by decide) _

theorem keeps_lodsOnce :
    Keeps s (lodsOnce acc src k s) (Footprint.join { words := [.si] } (writeFootprint s.params.wordWrap acc)) :=
  (((Keeps.refl s _).read _).write (Footprint.le_join_right _ _) _).setR16 List.mem_cons_self _

theorem keeps_stosOnce :
    Keeps s (stosOnce dst acc k s) (Footprint.join { words := [.di] } (writeFootprint s.params.wordWrap dst)) :=
  (((Keeps.refl s _).read _).write (Footprint.le_join_right _ _) _).setR16 List.mem_cons_self _

end

/-- What each iteration keeps, a string instruction keeps, but for CX where the mode repeats (R801). -/
theorem frame_of_repeatStep {i : Instr} {compares : Bool} {once : Ins → State → State}
    {fp : Ins → State → Footprint}
    (hi : ∀ ps s, runIn ps i s = complete ps i (fun ins => repeatStep ins compares (once ins)) s)
    (h : ∀ ins u, Keeps u (once ins u) (fp ins u)) :
    Frame i (fun ins u => { fp ins u with words := (fp ins u).words ++ repeatWords ins }) :=
  frame_of hi fun ins u => (h ins u).repeatStep (iteration := once ins) compares

end Sys2Proof.Machine

open Sys2Proof Sys2Proof.Machine

/-- Settles O39: the driver around the rule, with `CX - 1 = 0` and the size of the instruction worked out. -/
theorem repeatDriver : Obligations.RepeatDriver := by
  unfold Obligations.RepeatDriver
  refine fun i rule h => ⟨?empty, ?counted⟩
  case empty =>
    exact runsWhen_of (runIn_of_stringRule h) (cls_ne_esc_of_stringRule h) fun ins u ⟨hrep, hcx⟩ =>
      repeatStep_of_cx_eq_zero _ hrep hcx
  case counted =>
    intro ps s r ha he hr hc
    have hstart : (s.start ps i).cx = s.cx := by simp [State.start]
    obtain ⟨hcx, hip⟩ := stringRule_cx_ip h (insAt ps i s) (s.start ps i)
    rw [exec_wrapAll ps i s ha, runIn_of_stringRule h, complete_executes _ he (cls_ne_esc_of_stringRule h),
      repeatStep_of_cx_ne_zero _ hr (hstart ▸ hc) hcx hip, hstart, start_ip_sub_size]

/-- Settles O38: with no repeat mode the driver is the iteration. -/
theorem stringIterationResults : Obligations.StringIterationResults := by
  unfold Obligations.StringIterationResults
  refine ⟨fun i rule h => ?runs, fun s k x => ?adv⟩
  case runs =>
    exact runsWhen_of (runIn_of_stringRule h) (cls_ne_esc_of_stringRule h) fun ins u hrep =>
      repeatStep_of_rep_eq_none _ hrep
  case adv => rfl

/-- Settles O54: the driver adds CX to what the iteration of each instruction keeps. -/
theorem stringFrame : Obligations.StringFrame := by
  unfold Obligations.StringFrame
  refine ⟨?movsb, ?movsw, ?cmpsb, ?cmpsw, ?scasb, ?scasw, ?lodsb, ?lodsw, ?stosb, ?stosw⟩
  case movsb => exact frame_of_repeatStep (i := .movsb) (fun _ _ => rfl) fun ins u => keeps_movsOnce u _ _ _
  case movsw => exact frame_of_repeatStep (i := .movsw) (fun _ _ => rfl) fun ins u => keeps_movsOnce u _ _ _
  case cmpsb => exact frame_of_repeatStep (i := .cmpsb) (fun _ _ => rfl) fun ins u => keeps_cmpsOnce u _ _ _
  case cmpsw => exact frame_of_repeatStep (i := .cmpsw) (fun _ _ => rfl) fun ins u => keeps_cmpsOnce u _ _ _
  case scasb => exact frame_of_repeatStep (i := .scasb) (fun _ _ => rfl) fun ins u => keeps_scasOnce u _ _ _
  case scasw => exact frame_of_repeatStep (i := .scasw) (fun _ _ => rfl) fun ins u => keeps_scasOnce u _ _ _
  case lodsb => exact frame_of_repeatStep (i := .lodsb) (fun _ _ => rfl) fun ins u => keeps_lodsOnce u _ _ _
  case lodsw => exact frame_of_repeatStep (i := .lodsw) (fun _ _ => rfl) fun ins u => keeps_lodsOnce u _ _ _
  case stosb => exact frame_of_repeatStep (i := .stosb) (fun _ _ => rfl) fun ins u => keeps_stosOnce u _ _ _
  case stosw => exact frame_of_repeatStep (i := .stosw) (fun _ _ => rfl) fun ins u => keeps_stosOnce u _ _ _
end

section
/-! PROOFS. The results of the control transfers (R901 to R921). -/

namespace Sys2Proof.Machine

section
variable (s : State) (d : Byte)

/-! ### Jumps on a condition, and the loops -/

/-- A short jump under a condition that the Boolean test decides (R905). -/
theorem State.jumpIf_eq {c : Bool} {p : Prop} [Decidable p] (h : c = true ↔ p) :
    s.jumpIf c d = if p then s.setIp (s.ip + d.signExtend 16) else s :=
  if_congr h rfl rfl

theorem condA_iff (f : Flags) : condA f = true ↔ f.CF = false ∧ f.ZF = false := by
  rw [condA, Bool.and_eq_true, Bool.not_eq_true', Bool.not_eq_true']

theorem condLE_iff (f : Flags) : condLE f = true ↔ f.ZF = true ∨ f.SF ≠ f.OF := by
  rw [condLE, Bool.or_eq_true, bne_iff_ne]

theorem condG_iff (f : Flags) : condG f = true ↔ f.ZF = false ∧ f.SF = f.OF := by
  rw [condG, Bool.and_eq_true, Bool.not_eq_true', beq_iff_eq]

/-- CX reaches 0 from 1 alone, so from 0 the loop goes on (R907). -/
theorem State.countDown_cx_bne_zero : (s.countDown.cx != 0#16) = true ↔ s.cx ≠ 1#16 := by
  rw [bne_iff_ne, State.countDown, State.setR16_cx_cx]
  exact sub_ne_zero

theorem State.countDown_flags : s.countDown.flags = s.flags := rfl

/-! ### The stack -/

/-- A pop reads the word at SS:SP (R431). -/
theorem State.pop16_fst : s.pop16.1 = s.word s.ss s.sp := rfl

/-- A pop neither reads nor writes ip. -/
theorem State.pop16_setIp (v : Word) : (s.setIp v).pop16 = (s.pop16.1, s.pop16.2.setIp v) := rfl

/-- A word of memory depends on the memory and the parameters only (R205, R211). -/
theorem State.word_congr {s t : State} (hm : t.mem = s.mem) (hp : t.params = s.params) (seg off : Word) :
    t.word seg off = s.word seg off := by
  simp only [State.word, State.segRead16_fst, State.memByte_congr hm hp, hp]

/-! ### Calls and returns -/

variable (ins : Ins)

/-- Reading the target moves nothing that the push uses (R911). -/
theorem callBody_ind (e : Rm Reg16) :
    callBody (.ind e) ins s =
      let x := s.read (ewLoc ins s e)
      (x.2.push16 s.ip).setIp x.1 := by
  simp only [callBody, State.read_ip]

/-- The offset pushed is that after the call, whatever the push of CS does (R912). -/
theorem State.pushReturn_eq : s.pushReturn = (s.push16 s.cs).push16 s.ip := by
  rw [State.pushReturn, State.push16_ip]

theorem callfBody_ptr (seg off : Word) :
    callfBody (.ptr seg off) ins s = { (s.push16 s.cs).push16 s.ip with cs := seg, ip := off } := by
  rw [callfBody, State.pushReturn_eq]
  rfl

/-- Reading the far pointer moves nothing that the pushes use (R913). -/
theorem callfBody_ind (m : MemOp) :
    callfBody (.ind m) ins s =
      let x := s.readFar ins m
      { (x.2.push16 s.cs).push16 s.ip with cs := x.1.2, ip := x.1.1 } := by
  simp only [callfBody, State.pushReturn_eq, State.readFar_cs, State.readFar_ip]
  rfl

theorem retBody_imm (v : Word) :
    retBody (.imm v) ins s = (s.pop16.2.setIp s.pop16.1).setR16 .sp (s.sp + 2 + v) := by
  rw [retBody, State.release, State.setIp_sp, State.pop16_sp]

theorem retfBody_eq (f : RetForm) :
    retfBody f ins s = State.release { s.pop16.2.pop16.2 with ip := s.pop16.1, cs := s.pop16.2.pop16.1 } f := by
  simp only [retfBody, State.pop16_setIp]
  rfl

/-- Two pops and the release raise SP by 4 and the immediate (R917). -/
theorem retfBody_imm (v : Word) :
    retfBody (.imm v) ins s =
      { s.pop16.2.pop16.2 with ip := s.pop16.1, cs := s.pop16.2.pop16.1, sp := s.sp + 4 + v } := by
  have hsp : s.pop16.2.pop16.2.sp = s.sp + 4 := by
    rw [State.pop16_sp, State.pop16_sp, BitVec.add_assoc]
    rfl
  rw [retfBody_eq, State.release, hsp]
  rfl

/-! ### IRET -/

/-- The three pops leave memory alone, so each reads what stood in its slot at the start (R921, R1133). -/
theorem interruptReturn_result :
    let t := s.interruptReturn
    t.ip = s.word s.ss s.sp ∧ t.cs = s.word s.ss (s.sp + 2) ∧
    t.flags = Flags.unpack (s.word s.ss (s.sp + 4)) ∧ t.sp = s.sp + 6 ∧ t.status = s.status := by
  have hpop : ∀ u : State, u.mem = s.mem → u.params = s.params → u.ss = s.ss → u.pop16.1 = s.word s.ss u.sp :=
    fun u hm hp hss => by rw [State.pop16_fst, State.word_congr hm hp, hss]
  simp [State.interruptReturn, hpop, BitVec.add_assoc]

end

end Sys2Proof.Machine

open Sys2Proof Sys2Proof.Machine

/-- Settles O41: each is a short jump, and the test of its condition says what the statement says. -/
theorem conditionalJumpResults : Obligations.ConditionalJumpResults := by
  unfold Obligations.ConditionalJumpResults
  refine fun d => ⟨?jo, ?jno, ?jb, ?jnb, ?jz, ?jnz, ?jbe, ?ja, ?js, ?jns, ?jp, ?jnp, ?jl, ?jnl, ?jle, ?jg⟩
  case jo | jb | jz | js | jp => exact runs_of (fun _ _ => rfl) nofun fun _ u => u.jumpIf_eq d Iff.rfl
  case jno | jnb | jnz | jns | jnp =>
    exact runs_of (fun _ _ => rfl) nofun fun _ u => u.jumpIf_eq d (iff_of_eq (Bool.not_eq_true' _))
  case jbe => exact runs_of (fun _ _ => rfl) nofun fun _ u => u.jumpIf_eq d Bool.or_eq_true_iff
  case ja => exact runs_of (fun _ _ => rfl) nofun fun _ u => u.jumpIf_eq d (condA_iff u.flags)
  case jl => exact runs_of (fun _ _ => rfl) nofun fun _ u => u.jumpIf_eq d bne_iff_ne
  case jnl => exact runs_of (fun _ _ => rfl) nofun fun _ u => u.jumpIf_eq d beq_iff_eq
  case jle => exact runs_of (fun _ _ => rfl) nofun fun _ u => u.jumpIf_eq d (condLE_iff u.flags)
  case jg => exact runs_of (fun _ _ => rfl) nofun fun _ u => u.jumpIf_eq d (condG_iff u.flags)

/-- Settles O40: the jumps by definition, the loops as short jumps from the state with CX decremented. -/
theorem jumpAndLoopResults : Obligations.JumpAndLoopResults := by
  unfold Obligations.JumpAndLoopResults
  refine ⟨fun d => ?short, fun d => ?near, fun e => ?ind, fun seg off => ?farPtr, fun m => ?farInd,
    fun d => ⟨?jcxz, ?loop, ?loopz, ?loopnz⟩⟩
  case short | near | ind | farPtr | farInd => exact runs_of (fun _ _ => rfl) nofun fun ins u => rfl
  case jcxz => exact runs_of (fun _ _ => rfl) nofun fun _ u => u.jumpIf_eq d beq_iff_eq
  case loop =>
    exact runs_of (fun _ _ => rfl) nofun fun _ u => u.countDown.jumpIf_eq d u.countDown_cx_bne_zero
  case loopz =>
    exact runs_of (fun _ _ => rfl) nofun fun _ u => u.countDown.jumpIf_eq d <| by
      rw [Bool.and_eq_true, u.countDown_cx_bne_zero, u.countDown_flags]
  case loopnz =>
    exact runs_of (fun _ _ => rfl) nofun fun _ u => u.countDown.jumpIf_eq d <| by
      rw [Bool.and_eq_true, u.countDown_cx_bne_zero, Bool.not_eq_true', u.countDown_flags]

/-- Settles O42: what the pushes use is not moved by the reads before them, and SP is the sum of the pops. -/
theorem callAndReturnResults : Obligations.CallAndReturnResults := by
  unfold Obligations.CallAndReturnResults
  refine ⟨fun d => ?near, fun e => ?ind, fun seg off => ?farPtr, fun m => ?farInd, ?ret, fun v => ?retImm, ?retf,
    fun v => ?retfImm⟩
  case near =>
    exact runs_of (fun _ _ => rfl) nofun fun ins u => by rw [callBody, State.jumpBy, State.push16_ip]
  case ind => exact runs_of (fun _ _ => rfl) nofun fun ins u => callBody_ind u ins e
  case farPtr => exact runs_of (fun _ _ => rfl) nofun fun ins u => callfBody_ptr u ins seg off
  case farInd => exact runs_of (fun _ _ => rfl) nofun fun ins u => callfBody_ind u ins m
  case ret => exact runs_of (fun _ _ => rfl) nofun fun ins u => rfl
  case retImm => exact runs_of (fun _ _ => rfl) nofun fun ins u => retBody_imm u ins v
  case retf => exact runs_of (fun _ _ => rfl) nofun fun ins u => retfBody_eq u ins .plain
  case retfImm => exact runs_of (fun _ _ => rfl) nofun fun ins u => retfBody_imm u ins v

/-- Settles O43: the interrupts by definition, INTO by its test of OF, IRET by its three pops. -/
theorem interruptResults : Obligations.InterruptResults := by
  unfold Obligations.InterruptResults
  refine ⟨fun n => ?int, ?int3, ?overflow, ?noOverflow, ?iret⟩
  case int | int3 => exact runs_of (fun _ _ => rfl) nofun fun ins u => rfl
  case overflow => exact runsWhen_of (fun _ _ => rfl) nofun fun ins u hOF => if_pos hOF
  case noOverflow => exact runsWhen_of (fun _ _ => rfl) nofun fun ins u hOF => if_neg (ne_true_of_eq_false hOF)
  case iret =>
    exact runsTo_of (fun _ _ => rfl) nofun fun ins u hstatus => hstatus ▸ interruptReturn_result u
end

section
/-! PROOFS. The frames of the control transfers. -/

namespace Sys2Proof.Machine

/-! ### Footprints of pushes within footprints -/

theorem pushFootprint_congr {s t : State} (hp : t.params = s.params) (hss : t.ss = s.ss) (hsp : t.sp = s.sp) :
    pushFootprint t = pushFootprint s := by
  rw [pushFootprint, hp, hss, hsp, pushFootprint]

theorem push2Footprint_congr {s t : State} (hp : t.params = s.params) (hss : t.ss = s.ss) (hsp : t.sp = s.sp) :
    push2Footprint t = push2Footprint s := by
  rw [push2Footprint, hp, hss, hsp, push2Footprint]

/-! ### What one more operation keeps -/

section
variable {s t : State} {fp : Footprint} (h : Keeps s t fp)
include h

theorem Keeps.setIp (v : Word) : Keeps s (t.setIp v) fp := h.comp (keeps_setIp t v fp)

/-- A jump changes ip at most (R905). -/
theorem Keeps.jumpIf (c : Bool) (d : Byte) : Keeps s (t.jumpIf c d) fp := (h.setIp _).ite h _

/-- What a return releases is taken from SP (R915, R917). -/
theorem Keeps.release (hsp : .sp ∈ fp.words) (f : RetForm) : Keeps s (t.release f) fp := by
  cases f with
  | plain => exact h
  | imm v => exact h.setR16 hsp _

end

/-! ### What each rule keeps -/

section
variable (ins : Ins) (s : State)

/-- The slot of the second push is the two bytes below that of the first (R912). -/
theorem keeps_pushReturn : Keeps s s.pushReturn (push2Footprint s) := by
  refine ((keeps_push16 s s.cs).trans (keeps_push16 _ _)).mono ?_
  simp [Footprint.le, Footprint.join, pushFootprint, push2Footprint, BitVec.sub_sub]

theorem keeps_jmpBody (f : JmpForm) : Keeps s (jmpBody f ins s) {} := by
  cases f with
  | short d | near d => exact keeps_setIp s _ _
  | ind e => exact (keeps_read s _ _).setIp _

theorem keeps_jmpfBody (f : FarForm) : Keeps s (jmpfBody f ins s) { segs := [.cs] } := by
  cases f with
  | ptr seg off => exact (keeps_setSReg s .cs seg).setIp _
  | ind m => exact ((keeps_readFar s ins m _).setIp _).setSReg (by decide) _

theorem keeps_callBody (f : CallForm) : Keeps s (callBody f ins s) (pushFootprint s) := by
  cases f with
  | near d => exact (keeps_push16 s _).setIp _
  | ind e =>
    rw [← pushFootprint_congr (s.read_params (ewLoc ins s e)) (s.read_ss _) (s.read_sp _)]
    exact ((keeps_read s _ _).comp (keeps_push16 _ _)).setIp _

theorem keeps_callfBody (f : FarForm) :
    Keeps s (callfBody f ins s) ((push2Footprint s).join { segs := [.cs] }) := by
  cases f with
  | ptr seg off => exact ((keeps_pushReturn s).trans (keeps_setSReg _ .cs seg)).setIp _
  | ind m =>
    rw [← push2Footprint_congr (s.readFar_params ins m) (s.readFar_ss ins m) (s.readFar_sp ins m)]
    exact ((keeps_readFar s ins m _).comp ((keeps_pushReturn _).trans (keeps_setSReg _ .cs _))).setIp _

theorem keeps_retBody (f : RetForm) : Keeps s (retBody f ins s) { words := [.sp] } :=
  ((keeps_pop16 s).setIp _).release (by decide) _

theorem keeps_retfBody (f : RetForm) : Keeps s (retfBody f ins s) { words := [.sp], segs := [.cs] } :=
  (((((Keeps.refl s _).pop16 (by decide)).setIp _).pop16 (by decide)).setSReg (by decide) _).release (by decide) _

theorem keeps_intoBody : Keeps s (intoBody ins s) (if s.flags.OF = true then entryFootprint s else {}) := by
  unfold intoBody
  split
  · exact keeps_interruptEntry s 4#8
  · exact Keeps.refl s _

end

end Sys2Proof.Machine

open Sys2Proof Sys2Proof.Machine

/-- Settles O55: apart from ip each rule writes CX, its stack slots with SP, CS, or what interrupt entry or
return does. -/
theorem controlTransferFrame : Obligations.ControlTransferFrame := by
  unfold Obligations.ControlTransferFrame
  refine ⟨fun f => ?jmp, fun f => ?jmpf,
    fun d => ⟨?jo, ?jno, ?jb, ?jnb, ?jz, ?jnz, ?jbe, ?ja, ?js, ?jns, ?jp, ?jnp, ?jl, ?jnl, ?jle, ?jg, ?jcxz, ?loop,
      ?loopz, ?loopnz⟩,
    fun f => ?call, fun f => ?callf, fun f => ⟨?ret, ?retf⟩, fun n => ?int, ?int3, ?into, ?iret⟩
  case jmp => exact frame_of (fun _ _ => rfl) fun ins u => keeps_jmpBody ins u f
  case jmpf => exact frame_of (fun _ _ => rfl) fun ins u => keeps_jmpfBody ins u f
  case jo | jno | jb | jnb | jz | jnz | jbe | ja | js | jns | jp | jnp | jl | jnl | jle | jg | jcxz =>
    exact frame_of (fun _ _ => rfl) fun ins u => (Keeps.refl u _).jumpIf _ d
  case loop | loopz | loopnz =>
    exact frame_of (fun _ _ => rfl) fun ins u => (keeps_setR16 u .cx _).jumpIf _ d
  case call => exact frame_of (fun _ _ => rfl) fun ins u => keeps_callBody ins u f
  case callf => exact frame_of (fun _ _ => rfl) fun ins u => keeps_callfBody ins u f
  case ret => exact frame_of (fun _ _ => rfl) fun ins u => keeps_retBody ins u f
  case retf => exact frame_of (fun _ _ => rfl) fun ins u => keeps_retfBody ins u f
  case int => exact frame_of (fun _ _ => rfl) fun ins u => keeps_interruptEntry u n
  case int3 => exact frame_of (fun _ _ => rfl) fun ins u => keeps_interruptEntry u 3#8
  case into => exact frame_of (fun _ _ => rfl) keeps_intoBody
  case iret => exact frame_of (fun _ _ => rfl) fun ins u => keeps_interruptReturn u
end

section
/-! PROOFS. The frames of IN, OUT, the flag instructions, HLT, WAIT, ESC and rejected encodings. -/

namespace Sys2Proof.Machine

section
variable (s : State)

/-! ### Ports -/

theorem keeps_inAl (p : Word) : Keeps s (s.inAl p) { halves := [.al] } :=
  (keeps_portIn8 s p _).setR8 (.inl (by decide)) _

theorem keeps_inAx (p : Word) : Keeps s (s.inAx p) { words := [.ax] } :=
  (keeps_portIn16 s p _).setR16 (by decide) _

/-! ### One flag -/

theorem keeps_setCF (b : Bool) : Keeps s (s.setFlags { s.flags with CF := b }) { flags := [.CF] } :=
  (Keeps.refl s _).putFlag (n := .CF) (by decide) b

theorem keeps_setDF (b : Bool) : Keeps s (s.setFlags { s.flags with DF := b }) { flags := [.DF] } := by
  refine keeps_setFlags s _ fun n hn => ?_
  cases n with
  | DF => exact absurd (List.mem_singleton_self _) hn
  | _ => rfl

theorem keeps_setIF (b : Bool) : Keeps s (s.setFlags { s.flags with IF := b }) { flags := [.IF] } := by
  refine keeps_setFlags s _ fun n hn => ?_
  cases n with
  | IF => exact absurd (List.mem_singleton_self _) hn
  | _ => rfl

end

/-! ### Rejected encodings -/

/-- A rejected encoding reports itself or a LOCK before it, and changes the status only (R307, R1101). -/
theorem frame_invalid (why : DecodeReason) (bytes : List Byte) (fp : Ins → State → Footprint) :
    Frame (.invalid why bytes) fp := by
  intro ps s t ht
  by_cases ha : s.allows ps
  · rw [exec_wrapAll ps _ s ha, runIn, rejected, Host.Outcome.next.injEq] at ht
    exact ht ▸ keeps_decodeFailure s _ _ _
  · obtain ⟨read, hread⟩ := exec_wrapAll_lock ps (.invalid why bytes) s ha
    rw [hread, Host.Outcome.next.injEq] at ht
    exact ht ▸ keeps_decodeFailure s _ _ _

end Sys2Proof.Machine

open Sys2Proof Sys2Proof.Machine

/-- Settles O56: each rule writes the accumulator, its ports, its one flag, the status or nothing. -/
theorem portAndMiscFrame : Obligations.PortAndMiscFrame := by
  unfold Obligations.PortAndMiscFrame
  refine ⟨fun p => ⟨?inAl, ?inAx, ?outAl, ?outAx⟩, ?inAlDx, ?inAxDx, ?outAlDx, ?outAxDx, ?clc, ?stc, ?cmc, ?cld, ?std,
    ?cli, ?sti, ?hlt, ?wait, fun n reg e => ?esc, fun why bytes => ?invalid⟩
  case inAl | inAlDx => exact frame_of (fun _ _ => rfl) fun _ u => keeps_inAl u _
  case inAx | inAxDx => exact frame_of (fun _ _ => rfl) fun _ u => keeps_inAx u _
  case outAl | outAlDx => exact frame_of (fun _ _ => rfl) fun _ u => keeps_portOut8 u _ _
  case outAx | outAxDx => exact frame_of (fun _ _ => rfl) fun _ u => keeps_portOut16 u _ _
  case clc | stc | cmc => exact frame_of (fun _ _ => rfl) fun _ u => keeps_setCF u _
  case cld | std => exact frame_of (fun _ _ => rfl) fun _ u => keeps_setDF u _
  case cli | sti => exact frame_of (fun _ _ => rfl) fun _ u => keeps_setIF u _
  case hlt | esc => exact frame_of (fun _ _ => rfl) fun _ u => keeps_setStatus u _ _
  case wait => exact frame_of (fun _ _ => rfl) fun _ u => Keeps.refl u _
  case invalid => exact frame_invalid why bytes _
end

section
/-! PROOFS. The results of IN and OUT, of the flag instructions, HLT and WAIT, and the step after an HLT. -/

namespace Sys2Proof.Machine

/-! ### Ports -/

theorem State.portIn8_of_not_mem (s : State) {p : Word} (h : p ∉ s.params.portDevices) :
    s.portIn8 p = (s.portByte p, s) := if_neg h

theorem State.portIn8_of_mem (s : State) {p : Word} (h : p ∈ s.params.portDevices) : s.portIn8 p = s.drawByte :=
  if_pos h

/-! ### The prefixes that decoding accepts -/

theorem lockPrefix_of_prefixAt {p : Params} {b : Byte} (h : prefixAt p b = some .lock) : p.lockPrefix = .ignore := by
  unfold prefixAt at h
  split_ifs at h with _ _ _ _ _ _ hlock <;> cases h
  exact hlock.2

theorem unprefixed_fit {r : DecodeResult} (h : unprefixed r = true) (room : Nat) : unprefixed (r.fit room) = true := by
  cases r with
  | error why n => rfl
  | ok i =>
    rw [DecodeResult.fit]
    split
    · exact h
    · rfl

theorem under_eq_ok {q : Prefix} {r : DecodeResult} {i : Instr} (h : r.under q = .ok i) :
    ∃ j, r = .ok j ∧ q.wrap j = i := by
  cases r with
  | ok j => exact ⟨j, rfl, DecodeResult.ok.inj h⟩
  | error why n => cases h

/-- When decoding gives a prefixed instruction, the outermost of its prefixes is the first byte, and what stands after
that is decoded from the bytes after it (R346). -/
theorem decodeWithin_wrap {p : Params} {room : Nat} {c : Code} {q : Prefix} {j : Instr}
    (h : decodeWithin p room c = .ok (q.wrap j)) :
    prefixAt p (c 0) = some q ∧ ∃ left, decodeWithin p left (fun k => c (k + 1)) = .ok j := by
  cases room with
  | zero => cases h
  | succ room =>
    cases hq : prefixAt p (c 0) with
    | none =>
      simp only [decodeWithin, hq] at h
      have hbody := unprefixed_fit (decodeBody_unprefixed c) (room + 1)
      rw [h, unprefixed, isPrefix_wrap] at hbody
      cases hbody
    | some q' =>
      simp only [decodeWithin, hq] at h
      obtain ⟨j', hj, hwrap⟩ := under_eq_ok h
      obtain ⟨rfl, rfl⟩ := wrap_inj hwrap
      exact ⟨rfl, room, hj⟩

/-- A decoded instruction stands under LOCK only where LOCK_PREFIX allows it (R307). -/
theorem lockPrefix_of_decodeWithin {p : Params} {room : Nat} {c : Code} {ps : List Prefix} {i : Instr}
    (h : decodeWithin p room c = .ok (Prefix.wrapAll ps i)) (hlock : .lock ∈ ps) : p.lockPrefix = .ignore := by
  induction ps generalizing room c with
  | nil => cases hlock
  | cons q ps ih =>
    obtain ⟨hq, left, htail⟩ := decodeWithin_wrap h
    rcases List.mem_cons.mp hlock with rfl | hmem
    · exact lockPrefix_of_prefixAt hq
    · exact ih htail hmem

theorem State.allows_of_decoded {s : State} {ps : List Prefix} {i : Instr}
    (h : s.decoded = .ok (Prefix.wrapAll ps i)) : s.allows ps :=
  lockPrefix_of_decodeWithin h

/-! ### HLT -/

theorem runs_hlt : Runs .hlt hltBody := runs_of (fun _ _ => rfl) nofun fun _ _ => rfl

/-- HLT is of tier source, so both profiles execute it (R362, R406). -/
theorem State.executes_hlt (s : State) : s.executes .hlt := .inr rfl

/-- The step at an HLT runs its rule from the fetched state (R401, R1010). -/
theorem step_hlt {s : State} {ps : List Prefix} (h : s.decoded = .ok (Prefix.wrapAll ps .hlt)) :
    step s = .next (hltBody (insAt ps .hlt s.fetched) (s.fetched.start ps .hlt)) := by
  obtain ⟨hstep, -, -⟩ := stepRunsDecodedInstruction
  rw [hstep s _ h]
  exact runs_hlt ps s.fetched (State.allows_of_decoded h) s.fetched.executes_hlt trivial

/-- The state after an HLT has the tuple from before it but for ip (R1102). -/
theorem sameTuple_after_hlt (s : State) (ps : List Prefix) :
    (hltBody (insAt ps .hlt s.fetched) (s.fetched.start ps .hlt)).sameTuple
      { s with ip := s.ip + BitVec.ofNat 16 (ps.length + 1) } :=
  ⟨rfl, rfl, rfl, rfl, rfl, rfl, rfl, rfl, rfl, rfl, rfl, rfl, rfl, rfl, rfl, rfl⟩

end Sys2Proof.Machine

open Sys2Proof Sys2Proof.Machine

/-- Settles O46: the values of byte accesses by whether the port has a device, the rest by definition. -/
theorem portResults : Obligations.PortResults := by
  unfold Obligations.PortResults
  refine ⟨fun s p => s.portIn8_of_not_mem, fun s p => s.portIn8_of_mem, fun s p v => ⟨?same, ?other, rfl, rfl⟩,
    fun p => ⟨?inAl, ?inAx, ?outAl, ?outAx⟩, ?inAlDx, ?inAxDx, ?outAlDx, ?outAxDx⟩
  case same => exact (s.portByte_portOut8 p p v).trans (if_pos rfl)
  case other => exact fun q hq => (s.portByte_portOut8 p q v).trans (if_neg hq)
  case inAl | inAx | outAl | outAx | inAlDx | inAxDx | outAlDx | outAxDx =>
    exact runs_of (fun _ _ => rfl) nofun fun _ _ => rfl

/-- Settles O47: the rules by definition; the step at an HLT runs its rule, and the next step reads memory, CS and ip
but not the status. -/
theorem flagControlAndHalt : Obligations.FlagControlAndHalt := by
  unfold Obligations.FlagControlAndHalt
  obtain ⟨hstep, hdecoded, -⟩ := stepRunsDecodedInstruction
  refine ⟨?clc, ?stc, ?cmc, ?cld, ?std, ?cli, ?sti, runs_hlt, fun s => ?bare,
    fun s ps h => ⟨_, step_hlt h, rfl, sameTuple_after_hlt s ps, hdecoded _, hstep _⟩, ?wait⟩
  case clc | stc | cmc | cld | std | cli | sti | wait => exact runs_of (fun _ _ => rfl) nofun fun _ _ => rfl
  case bare => exact runs_hlt [] s nofun s.executes_hlt trivial
end

section
/-! PROOFS. Interrupt entry and the return from it (R1131, R1133): the state the three pushes leave, and what the
stack slots hold in it. `interruptEntry_eq` says once what entry does. -/

namespace Sys2Proof.Machine

/-! ### Words that do not overlap -/

/-- Different offsets into one segment are different addresses (R201). -/
theorem flat_ne {seg x y : Word} (h : x ≠ y) : flat seg x ≠ flat seg y := by
  intro heq
  have hnat := congrArg BitVec.toNat heq
  rw [flat_toNat, flat_toNat] at hnat
  bv_omega

/-- The high byte of a word is the low byte of no word of the segment but the one at the next offset (R211). -/
theorem second_ne_flat {w : WordWrap} {seg x y : Word} (h : x + 1 ≠ y) : second w seg x ≠ flat seg y := by
  cases w with
  | flat =>
    intro heq
    have hnat := congrArg BitVec.toNat heq
    rw [second, BitVec.toNat_add, flat_toNat, flat_toNat] at hnat
    bv_omega
  | segment => exact flat_ne h

theorem second_ne_second {w : WordWrap} {seg x y : Word} (h : x ≠ y) : second w seg x ≠ second w seg y := by
  cases w with
  | flat => exact (add_left_injective 1).ne (flat_ne h)
  | segment => exact flat_ne ((add_left_injective 1).ne h)

/-- A word store leaves the words alone that share no byte with it (R211). -/
theorem State.word_segWrite16_ne (s : State) {seg x y : Word} (v : Word) (h : y ≠ x) (hy : y + 1 ≠ x)
    (hx : x + 1 ≠ y) : (s.segWrite16 seg x v).word seg y = s.word seg y := by
  rw [State.word, State.word, State.segRead16_fst, State.segRead16_fst, State.segWrite16_params,
    s.memByte_segWrite16_ne seg x v (flat_ne h) (second_ne_flat hx).symm,
    s.memByte_segWrite16_ne seg x v (second_ne_flat hy) (second_ne_second h)]

/-- Whether a word is in memory depends on the parameters only (R204). -/
theorem State.holdsWord_congr {s t : State} (h : t.params = s.params) (seg off : Word) :
    t.holdsWord seg off ↔ s.holdsWord seg off := by
  rw [State.holdsWord, State.holdsWord, State.holds, State.holds, State.holds, State.holds, h]

/-! ### Stack slots -/

section
variable {s : State} {seg off : Word} (hseg : seg = s.ss)
include hseg

/-- The slot of a push holds the word pushed, when it is in memory (R430, R432). -/
theorem State.word_push16_slot (v : Word) (hoff : off = s.sp - 2) (h : s.holdsWord seg off) :
    (s.push16 v).word seg off = v := by
  subst hseg hoff
  have hpop := s.pop16_push16 v h
  rwa [State.pop16_fst, State.push16_ss, State.push16_sp] at hpop

/-- A push leaves the two words above its slot alone, SP wrap included (R430). -/
theorem State.word_push16_above (v : Word) (hoff : off = s.sp ∨ off = s.sp + 2) :
    (s.push16 v).word seg off = s.word seg off := by
  rw [State.push16_eq, hseg]
  refine (State.word_segWrite16_ne _ v ?_ ?_ ?_).trans (State.word_congr (by simp) (by simp) _ _)
  all_goals rcases hoff with rfl | rfl <;> bv_omega

end

section
variable (s : State)

/-- A push records the stores of its two bytes, the low one first (R231, R430). -/
theorem State.push16_events (v : Word) :
    (s.push16 v).events = s.events ++
      [⟨.store, flat s.ss (s.sp - 2), loByte v⟩, ⟨.store, second s.params.wordWrap s.ss (s.sp - 2), hiByte v⟩] := by
  rw [State.push16_eq, State.segWrite16, State.memWrite_events, State.memWrite_events, List.append_assoc]
  rfl

/-! ### The three pushes of an interrupt entry -/

/-- Step 1 of interrupt entry: the flags pushed, and then IF and TF clear (R1131). -/
def State.flagsSaved : State := (s.push16 s.packed).setFlags { s.flags with IF := false, TF := false }

/-- The state before the vector is read: flags, CS and ip saved (R1131). -/
def State.saved : State := (s.flagsSaved.push16 s.cs).push16 s.ip

/-- Entry saves, then reads ip and CS at the vector, each read recorded as two fetches (R1131). -/
theorem State.interruptEntry_eq (n : Byte) :
    s.interruptEntry n =
      let off := BitVec.ofNat 16 (4 * n.toNat)
      let newIp := s.saved.segRead16 0#16 off
      let newCs := newIp.2.segRead16 0#16 (off + 2)
      (newCs.2.setIp newIp.1).setSReg .cs newCs.1 := by
  have hflags : (s.push16 s.packed).setFlags { (s.push16 s.packed).flags with IF := false, TF := false } =
      s.flagsSaved := by rw [State.push16_flags, State.flagsSaved]
  have hcs : s.flagsSaved.cs = s.cs := by simp [State.flagsSaved]
  have hip : (s.flagsSaved.push16 s.cs).ip = s.ip := by simp [State.flagsSaved]
  simp only [State.interruptEntry, hflags, hcs, hip]
  rfl

theorem State.flagsSaved_sp : s.flagsSaved.sp = s.sp - 2 := by simp [State.flagsSaved]

theorem State.flagsSaved_ss : s.flagsSaved.ss = s.ss := by simp [State.flagsSaved]

theorem State.flagsSaved_params : s.flagsSaved.params = s.params := by simp [State.flagsSaved]

theorem State.saved_sp : s.saved.sp = s.sp - 6 := by
  simp [State.saved, State.flagsSaved_sp, BitVec.sub_sub]

theorem State.saved_params : s.saved.params = s.params := by simp [State.saved, State.flagsSaved_params]

/-- In the slots that are in memory stand the packed flags, CS and ip, from the top down (R1131). -/
theorem State.saved_slots :
    (s.holdsWord s.ss (s.sp - 2) → s.saved.word s.ss (s.sp - 2) = s.packed) ∧
    (s.holdsWord s.ss (s.sp - 4) → s.saved.word s.ss (s.sp - 4) = s.cs) ∧
    (s.holdsWord s.ss (s.sp - 6) → s.saved.word s.ss (s.sp - 6) = s.ip) := by
  have hss : s.ss = s.flagsSaved.ss := s.flagsSaved_ss.symm
  have hss' : s.ss = (s.flagsSaved.push16 s.cs).ss := by rw [State.push16_ss, hss]
  have hsp : s.flagsSaved.sp = s.sp - 2 := s.flagsSaved_sp
  have hsp' : (s.flagsSaved.push16 s.cs).sp = s.sp - 4 := by rw [State.push16_sp, hsp]; bv_omega
  refine ⟨fun h => ?_, fun h => ?_, fun h => ?_⟩
  · calc s.saved.word s.ss (s.sp - 2)
      _ = (s.flagsSaved.push16 s.cs).word s.ss (s.sp - 2) :=
        State.word_push16_above hss' s.ip (.inr (by rw [hsp']; bv_omega))
      _ = s.flagsSaved.word s.ss (s.sp - 2) := State.word_push16_above hss s.cs (.inl hsp.symm)
      _ = (s.push16 s.packed).word s.ss (s.sp - 2) :=
        State.word_congr (by simp [State.flagsSaved]) (by simp [State.flagsSaved]) _ _
      _ = s.packed := State.word_push16_slot rfl s.packed rfl h
  · calc s.saved.word s.ss (s.sp - 4)
      _ = (s.flagsSaved.push16 s.cs).word s.ss (s.sp - 4) := State.word_push16_above hss' s.ip (.inl hsp'.symm)
      _ = s.cs := State.word_push16_slot hss s.cs (by rw [hsp]; bv_omega)
        ((State.holdsWord_congr s.flagsSaved_params _ _).mpr h)
  · exact State.word_push16_slot hss' s.ip (by rw [hsp']; bv_omega)
      ((State.holdsWord_congr (by simp [State.flagsSaved_params]) _ _).mpr h)

/-- The six stores of an interrupt entry, in order (R231, R1131). -/
theorem State.saved_events :
    let w := s.params.wordWrap
    s.saved.events = s.events ++
      [⟨.store, flat s.ss (s.sp - 2), loByte s.packed⟩, ⟨.store, second w s.ss (s.sp - 2), hiByte s.packed⟩,
       ⟨.store, flat s.ss (s.sp - 4), loByte s.cs⟩, ⟨.store, second w s.ss (s.sp - 4), hiByte s.cs⟩,
       ⟨.store, flat s.ss (s.sp - 6), loByte s.ip⟩, ⟨.store, second w s.ss (s.sp - 6), hiByte s.ip⟩] := by
  simp [State.saved, State.flagsSaved, State.push16_events, BitVec.sub_sub]

/-- A word read records the fetches of the word's two bytes (R211, R231). -/
theorem State.segRead16_events (seg off : Word) :
    (s.segRead16 seg off).2.events = s.events ++
      [⟨.fetch, flat seg off, loByte (s.word seg off)⟩,
       ⟨.fetch, second s.params.wordWrap seg off, hiByte (s.word seg off)⟩] := by
  rw [State.word, State.segRead16_fst, loByte_wordOf, hiByte_wordOf, State.segRead16_eq]

/-! ### The state after entry -/

section
variable (n : Byte)

theorem interruptEntry_sp : (s.interruptEntry n).sp = s.sp - 6 := by simp [State.interruptEntry_eq, State.saved_sp]

theorem interruptEntry_ss : (s.interruptEntry n).ss = s.ss := by
  simp [State.interruptEntry_eq, State.saved, State.flagsSaved]

theorem interruptEntry_status : (s.interruptEntry n).status = s.status := by
  simp [State.interruptEntry_eq, State.saved, State.flagsSaved]

theorem interruptEntry_flags : (s.interruptEntry n).flags = { s.flags with IF := false, TF := false } := by
  simp [State.interruptEntry_eq, State.saved, State.flagsSaved]

/-- Reading the vector leaves memory as the pushes did. -/
theorem interruptEntry_word (seg off : Word) : (s.interruptEntry n).word seg off = s.saved.word seg off := by
  refine State.word_congr ?_ ?_ seg off <;> simp [State.interruptEntry_eq]

theorem interruptEntry_ip : (s.interruptEntry n).ip = s.saved.word 0#16 (BitVec.ofNat 16 (4 * n.toNat)) := by
  simp [State.interruptEntry_eq, State.word]

theorem interruptEntry_cs : (s.interruptEntry n).cs = s.saved.word 0#16 (BitVec.ofNat 16 (4 * n.toNat) + 2) := by
  rw [State.interruptEntry_eq]
  exact State.word_congr (by simp) (by simp) _ _

/-- After the stores come the fetches of the new ip and of the new CS (R231, R1131). -/
theorem interruptEntry_events :
    let t := s.interruptEntry n
    let w := s.params.wordWrap
    let v := BitVec.ofNat 16 (4 * n.toNat)
    t.events = s.saved.events ++
      [⟨.fetch, flat 0#16 v, loByte t.ip⟩, ⟨.fetch, second w 0#16 v, hiByte t.ip⟩,
       ⟨.fetch, flat 0#16 (v + 2), loByte t.cs⟩, ⟨.fetch, second w 0#16 (v + 2), hiByte t.cs⟩] := by
  intro t w v
  have hcs : (s.saved.segRead16 0#16 v).2.word 0#16 (v + 2) = t.cs :=
    (State.word_congr (by simp) (by simp) _ _).trans (interruptEntry_cs s n).symm
  have hevents : t.events = ((s.saved.segRead16 0#16 v).2.segRead16 0#16 (v + 2)).2.events := by
    simp only [t, State.interruptEntry_eq, State.setSReg_events, State.setIp_events]
    rfl
  rw [hevents, State.segRead16_events, State.segRead16_events, State.segRead16_params, State.saved_params,
    hcs, ← interruptEntry_ip, List.append_assoc]
  rfl

end

end

end Sys2Proof.Machine

open Sys2Proof Sys2Proof.Machine

/-- Settles O44: the stack slots and stores by the three pushes, ip and CS and their fetches by the two reads that
follow, the rest by what entry keeps. -/
theorem interruptEntryFrame : Obligations.InterruptEntryFrame := by
  unfold Obligations.InterruptEntryFrame
  intro s n t w v
  obtain ⟨hflags, hcs, hip⟩ := s.saved_slots
  have hword : ∀ seg off, t.word seg off = s.saved.word seg off := interruptEntry_word s n
  simp only [hword]
  refine ⟨interruptEntry_sp s n, interruptEntry_flags s n, interruptEntry_ip s n, interruptEntry_cs s n, hflags, hcs,
    hip, keeps_interruptEntry s n, ?events⟩
  case events =>
    have hevents := interruptEntry_events s n
    rw [State.saved_events] at hevents
    exact hevents.trans (List.append_assoc _ _ _)

/-- Settles O45: the three pops of IRET read the slots that entry filled, and neither writes another register. -/
theorem entryThenReturn : Obligations.EntryThenReturn := by
  unfold Obligations.EntryThenReturn
  intro s n hflags hcs hip hones t
  have hword := interruptEntry_word s n
  obtain ⟨hflagsSlot, hcsSlot, hipSlot⟩ := s.saved_slots
  obtain ⟨hnewIp, hnewCs, hnewFlags, hnewSp, -⟩ := interruptReturn_result (s.interruptEntry n)
  obtain ⟨hregs, -, hsegs, -⟩ := (keeps_interruptEntry s n).trans (keeps_interruptReturn (s.interruptEntry n))
  have h4 : s.sp - 6 + 2 = s.sp - 4 := by bv_omega
  have h2 : s.sp - 6 + 4 = s.sp - 2 := by bv_omega
  have h0 : s.sp - 6 + 6 = s.sp := by bv_omega
  rw [interruptEntry_sp, interruptEntry_ss, hword] at hnewIp hnewCs hnewFlags
  rw [interruptEntry_sp, h0] at hnewSp
  refine ⟨hnewIp.trans (hipSlot hip), ?_, fun r => ?_, fun g => ?_⟩
  · rw [hnewFlags, h2, hflagsSlot hflags]
    exact s.flags.unpack_pack hones
  · by_cases hr : r = .sp
    · exact hr ▸ hnewSp
    · exact hregs r (by simpa [entryFootprint, Footprint.join] using hr) (by simp [entryFootprint, Footprint.join])
  · by_cases hg : g = .cs
    · rw [hg]
      exact hnewCs.trans (h4 ▸ hcsSlot hcs)
    · exact hsegs g (by simpa [entryFootprint, Footprint.join] using hg)
end

section
/-! PROOFS. The errors one by one: divide errors (R1120 to R1122), forms that the profile gate stops (R362, R1110) and
decode errors (R1101). -/

namespace Sys2Proof.Machine

/-! ### The divide error -/

section
variable {s : State} (cause : DivCause) (ins : Ins)

theorem divideError_of_report (h : s.params.divErrorMode = .report) :
    s.divideError cause ins = s.setStatus (.divideError cause ins.cls ins.start) := by
  rw [State.divideError, h]

theorem divideError_of_vector (h : s.params.divErrorMode = .vector) :
    s.divideError cause ins = s.interruptEntry 0#8 := by
  rw [State.divideError, h]

end

/-! ### Forms that are not executed -/

/-- Apart from prefixes and rejected encodings, every instruction runs in the frame that `complete` gives. -/
theorem runIn_eq_complete {i : Instr} (hi : isPrefix i = false) (hc : i.cls ≠ .invalid) :
    ∃ body, ∀ ps s, runIn ps i s = complete ps i body s := by
  cases i
  case es | cs | ss | ds | rep | repne | lock => cases hi
  case invalid => exact absurd rfl hc
  all_goals exact ⟨_, fun _ _ => rfl⟩

/-- The gate lets no ESC through, and in profile source no form of tier general (R406). -/
theorem gate_eq_false_iff {s : State} {i : Instr} :
    gate s.params i = false ↔ i.cls = .esc ∨ ¬ s.executes i := by
  constructor
  · intro h
    by_contra hn
    obtain ⟨hc, he⟩ := not_or.mp hn
    rw [gate_of_executes (not_not.mp he) hc] at h
    cases h
  · intro h
    unfold gate
    split
    · rfl
    · next hc =>
      have he : ¬ s.executes i := h.resolve_left hc
      simpa [State.executes, not_or] using he

/-- What the gate stops moves ip and reports itself, under any prefixes (R406, R1110). -/
theorem exec_of_gate_eq_false {ps : List Prefix} {i : Instr} {s : State} (ha : s.allows ps) (hi : isPrefix i = false)
    (hc : i.cls ≠ .invalid) (hg : gate s.params i = false) :
    exec (Prefix.wrapAll ps i) s =
      .next ((s.advance (ps.length + i.len)).setStatus (.unhandled i.cls (flat s.cs s.ip))) := by
  obtain ⟨body, hbody⟩ := runIn_eq_complete hi hc
  rw [exec_wrapAll ps i s ha, hbody, complete_eq, hg]
  rfl

/-! ### Tiers -/

/-- Prefixes do not change the tier (R362). -/
theorem tier_wrapAll (ps : List Prefix) (i : Instr) : (Prefix.wrapAll ps i).tier = i.tier := by
  induction ps with
  | nil => rfl
  | cons q ps ih => rw [← ih]; cases q <;> rfl

/-- The classes all of whose forms are of tier source (R362). -/
def sourceClasses : List Class :=
  [.add, .xor, .cmp, .inc, .dec, .mov, .push, .pop, .jo, .jno, .jb, .jnb, .jz, .jnz, .jbe, .ja, .js, .jns, .jp,
    .jnp, .jl, .jnl, .jle, .jg, .stosb, .stosw, .scasb, .scasw, .inp, .out, .clc, .stc, .cli, .sti, .cld, .std, .hlt]

/-- The forms of tier source of the classes that have forms of both tiers: the relative JMP and CALL, and RET without
an immediate (R362). -/
def sourceForm (i : Instr) : Prop :=
  (∃ d, i = .jmp (.short d)) ∨ (∃ d, i = .jmp (.near d)) ∨ (∃ d, i = .call (.near d)) ∨ i = .ret .plain

theorem tier_eq_source_iff {i : Instr} (hi : isPrefix i = false) :
    i.tier = .source ↔ i.cls ∈ sourceClasses ∨ sourceForm i := by
  cases i
  case es | cs | ss | ds | rep | repne | lock => cases hi
  case jmp f => cases f <;> simp [Instr.tier, JmpForm.tier, Instr.cls, sourceClasses, sourceForm]
  case call f => cases f <;> simp [Instr.tier, CallForm.tier, Instr.cls, sourceClasses, sourceForm]
  case ret f => cases f <;> simp [Instr.tier, RetForm.tier, Instr.cls, sourceClasses, sourceForm]
  all_goals simp [Instr.tier, Instr.cls, sourceClasses, sourceForm]

/-! ### Decode errors -/

theorem State.sameTuple.trans {s t u : State} (h : s.sameTuple t) (k : t.sameTuple u) : s.sameTuple u := by
  simp_all [State.sameTuple]

theorem decodeFailure_sameTuple (s : State) (why : DecodeReason) (bytes : List Byte) :
    (s.decodeFailure why bytes).sameTuple s := by
  simp [State.sameTuple, State.decodeFailure]

/-- The address and the bytes of the instruction depend on the tuple and the parameters only (R213, R402). -/
theorem State.fetch_congr {s t : State} (h : t.sameTuple s) (hp : t.params = s.params) :
    flat t.cs t.ip = flat s.cs s.ip ∧ t.code = s.code := by
  obtain ⟨-, -, -, -, -, -, -, -, -, hcs, -, -, hip, -, hmem, -⟩ := h
  refine ⟨by rw [hcs, hip], funext fun k => ?_⟩
  rw [State.code, State.code, State.fetchAddr, State.fetchAddr, hcs, hip, State.memByte_congr hmem hp]

/-- The step of a decode error fetches, and otherwise writes the status only (R1101). -/
theorem step_of_decode_error {s : State} {why : DecodeReason} {n : Nat} (h : s.decoded = .error why n) :
    ∃ t, step s = .next t ∧ t.sameTuple s ∧ t.params = s.params ∧
      t.status = .decodeError why (flat s.cs s.ip) ((List.range n).map s.code) := by
  refine ⟨s.fetched.decodeFailure why ((List.range n).map s.code), ?_,
    (decodeFailure_sameTuple _ _ _).trans s.fetched_sameTuple, rfl, rfl⟩
  rw [step, State.current, h, DecodeResult.instr, exec_eq_runIn, runIn]
  rfl

end Sys2Proof.Machine

open Sys2Proof Sys2Proof.Machine

/-- Settles O30: the two modes by definition, and AAM tests its base before it divides. -/
theorem divideErrorModes : Obligations.DivideErrorModes := by
  unfold Obligations.DivideErrorModes
  exact ⟨fun s => divideError_of_report, fun s => divideError_of_vector,
    runs_of (fun _ _ => rfl) nofun fun _ _ => if_pos rfl⟩

/-- Settles O48: the tiers form by form, and the gate stops the forms of tier general and ESC. -/
theorem unhandledForms : Obligations.UnhandledForms := by
  unfold Obligations.UnhandledForms
  refine ⟨fun ps i hi => ?tiers, fun ps i s ha hi hc hsource hgeneral => ?general, fun ps n reg e s ha => ?esc⟩
  case tiers => exact tier_wrapAll ps i ▸ tier_eq_source_iff hi
  case general =>
    have hexec : ¬ s.executes i := by simp [State.executes, hsource, hgeneral]
    exact exec_of_gate_eq_false ha hi hc (gate_eq_false_iff.mpr (.inr hexec))
  case esc => exact exec_of_gate_eq_false ha rfl nofun (gate_eq_false_iff.mpr (.inl rfl))

/-- Settles O9: a decode error leaves everything that the next step decodes from as it was. -/
theorem decodeErrorChangesNothing : Obligations.DecodeErrorChangesNothing := by
  unfold Obligations.DecodeErrorChangesNothing
  refine ⟨fun s why n h => ?_, fun ps why bytes s ha => ?_⟩
  · obtain ⟨t, hstep, hsame, hparams, hstatus⟩ := step_of_decode_error h
    obtain ⟨haddr, hcode⟩ := State.fetch_congr hsame hparams
    have hdecoded : t.decoded = .error why n := by rw [State.decoded, hparams, hcode, ← State.decoded, h]
    obtain ⟨u, hagain, hsame', -, hstatus'⟩ := step_of_decode_error hdecoded
    refine ⟨t, hstep, hsame, hstatus, u, hagain, hsame'.trans hsame, ?_⟩
    rw [hstatus', hstatus, haddr, hcode]
  · rw [exec_wrapAll ps _ s ha, runIn, rejected, State.decodeFailure]
end

section
/-! PROOFS. How the execution of an instruction can end (R1100): `runIn_ends` says once which statuses it answers with,
and why. -/

namespace Sys2Proof.Machine

/-- How executing `i` in `s` can end in `t`: the five outcomes of R1100, each with what brings it about. -/
inductive Ends (i : Instr) (s t : State) : Prop
  | continued (h : t.status = .continued)
  | halted (hc : i.cls = .hlt) (h : t.status = .halted (flat s.cs s.ip))
  | divideError (cause : DivCause) (hc : i.cls ∈ [.div, .idiv, .aam]) (hm : s.params.divErrorMode = .report)
      (h : t.status = .divideError cause i.cls (flat s.cs s.ip))
  | unhandled (hu : i.cls = .esc ∨ ¬ s.executes i) (h : t.status = .unhandled i.cls (flat s.cs s.ip))
  | decodeError (why : DecodeReason) (bytes : List Byte) (ht : t.sameTuple s)
      (h : t.status = .decodeError why (flat s.cs s.ip) bytes)

/-- Of the instruction only the class and the tier count. -/
theorem Ends.congr {i j : Instr} {s t : State} (h : Ends j s t) (hc : i.cls = j.cls) (ht : i.tier = j.tier) :
    Ends i s t := by
  have he : s.executes i ↔ s.executes j := by rw [State.executes, State.executes, ht]
  cases h with
  | continued h => exact .continued h
  | halted hk h => exact .halted (hc ▸ hk) h
  | divideError cause hk hm h => exact .divideError cause (hc ▸ hk) hm (hc ▸ h)
  | unhandled hu h => exact .unhandled (by rwa [hc, he]) (hc ▸ h)
  | decodeError why bytes hs h => exact .decodeError why bytes hs h

/-! ### What leaves the status alone -/

section
variable (s : State)

theorem release_status (f : RetForm) : (s.release f).status = s.status := by
  cases f <;> simp [State.release]

theorem jumpIf_status (c : Bool) (d : Byte) : (s.jumpIf c d).status = s.status := by
  unfold State.jumpIf
  split <;> rfl

theorem shiftOverflow_status (n : Byte) (overflow : Bool) : (s.shiftOverflow n overflow).status = s.status := by
  unfold State.shiftOverflow
  split <;> rfl

theorem interruptReturn_status : s.interruptReturn.status = s.status := by simp [State.interruptReturn]

/-- The repeat driver adds to its iteration CX and ip (R801). -/
theorem repeatStep_status {iteration : State → State} (hi : ∀ u, (iteration u).status = u.status) (ins : Ins)
    (compares : Bool) : (repeatStep ins compares iteration s).status = s.status := by
  unfold repeatStep
  cases ins.rep with
  | none => exact hi s
  | some r =>
    dsimp only
    split_ifs
    · rfl
    all_goals simp [hi]

variable (ins : Ins)

theorem aluStore_status (op : ∀ w : Nat, BitVec w → BitVec w → Flags → BitVec w × Flags) (f : AluForm) :
    (aluStore op f ins s).status = s.status := by simp [aluStore]

theorem aluCompare_status (op : ∀ w : Nat, BitVec w → BitVec w → Flags → BitVec w × Flags) (f : AluForm) :
    (aluCompare op f ins s).status = s.status := by simp [aluCompare]

theorem unaryStore_status (op : ∀ w : Nat, BitVec w → Flags → BitVec w × Flags) (o : Single) :
    (unaryStore op o s).status = s.status := by simp [unaryStore]

theorem logicStore_status (op : ∀ w : Nat, BitVec w → BitVec w → BitVec w) (f : AluForm) :
    (logicStore op f ins s).status = s.status := by simp [logicStore, State.logicResult]

theorem rotateBody_status (step : ∀ w : Nat, BitVec w → Bool → BitVec w × Bool)
    (overflow : ∀ w : Nat, BitVec w → BitVec w → Bool → Bool) (f : ShiftForm) :
    (rotateBody step overflow f ins s).status = s.status := by
  unfold rotateBody
  dsimp only
  split
  · rfl
  · simp [shiftOverflow_status]

theorem shiftBody_status (step : ∀ w : Nat, BitVec w → Bool → BitVec w × Bool)
    (overflow : ∀ w : Nat, BitVec w → BitVec w → Bool → Bool) (f : ShiftForm) :
    (shiftBody step overflow f ins s).status = s.status := by
  unfold shiftBody
  dsimp only
  split
  · rfl
  · simp [shiftOverflow_status]

theorem mulBody_status (f : UnForm) : (mulBody f ins s).status = s.status := by
  cases f <;> simp [mulBody, State.productFlags]

theorem imulBody_status (f : UnForm) : (imulBody f ins s).status = s.status := by
  cases f <;> simp [imulBody, State.productFlags]

end

/-! ### Divide errors -/

/-- A division ends as it began, or with a divide error that is to be reported (R1121, R1122). -/
def DivideEnds (ins : Ins) (s t : State) : Prop :=
  t.status = s.status ∨ s.params.divErrorMode = .report ∧ ∃ cause, t.status = .divideError cause ins.cls ins.start

section
variable (s : State) (ins : Ins)

theorem divideError_ends (cause : DivCause) : DivideEnds ins s (s.divideError cause ins) := by
  cases hm : s.params.divErrorMode with
  | report => exact .inr ⟨hm, cause, by rw [divideError_of_report cause ins hm, State.setStatus_status]⟩
  | vector => exact .inl (by rw [divideError_of_vector cause ins hm, interruptEntry_status])

theorem endDivision_ends {α β : Type} {store : State → β → β → State} (hs : ∀ q m, (store s q m).status = s.status)
    (f : α → β) (r : Except DivCause (α × α)) :
    DivideEnds ins s (s.endDivision ins (fun s q m => store s (f q) (f m)) r) := by
  cases r with
  | error cause => exact divideError_ends s ins cause
  | ok r => exact .inl (hs _ _)

/-- Reading the divisor changes neither the status nor the parameters. -/
theorem DivideEnds.of_read {s t : State} {ins : Ins} {w : Nat} {l : Loc w} (h : DivideEnds ins (s.read l).2 t) :
    DivideEnds ins s t := by
  rwa [DivideEnds, State.read_status, State.read_params] at h

theorem storeBytes_status (q m : Byte) : (s.storeBytes q m).status = s.status := by
  simp [State.storeBytes, State.drawStatus]

theorem storeWords_status (q m : Word) : (s.storeWords q m).status = s.status := by
  simp [State.storeWords, State.drawStatus]

theorem divBody_ends (f : UnForm) : DivideEnds ins s (divBody f ins s) := by
  cases f with
  | eb e => rw [divBody_eb]; exact .of_read (endDivision_ends _ ins (storeBytes_status _) _ _)
  | ew e => rw [divBody_ew]; exact .of_read (endDivision_ends _ ins (storeWords_status _) _ _)

theorem idivBody_ends (f : UnForm) : DivideEnds ins s (idivBody f ins s) := by
  cases f with
  | eb e => rw [idivBody_eb]; exact .of_read (endDivision_ends _ ins (storeBytes_status _) _ _)
  | ew e => rw [idivBody_ew]; exact .of_read (endDivision_ends _ ins (storeWords_status _) _ _)

theorem aamBody_ends (n : Byte) : DivideEnds ins s (aamBody n ins s) := by
  unfold aamBody
  split
  · exact divideError_ends s ins _
  · exact .inl (by simp)

end

/-! ### How the frame of an instruction ends -/

section
variable {ps : List Prefix} {i : Instr} {body : Ins → State → State} {s t : State}

/-- An instruction ends as its rule does, or unhandled at the gate (R406, R1110). -/
theorem ends_of_complete (h : complete ps i body s = .next t)
    (hb : Ends i s (body (insAt ps i s) (s.start ps i))) : Ends i s t := by
  rw [complete_eq, Host.Outcome.next.injEq] at h
  subst h
  split
  · exact hb
  · next hg => exact .unhandled (gate_eq_false_iff.mp (eq_false_of_ne_true hg)) rfl

/-- The step of a rule that writes no status ends with `continued` (R401). -/
theorem ends_continued (h : complete ps i body s = .next t) (hb : ∀ ins u, (body ins u).status = u.status) :
    Ends i s t :=
  ends_of_complete h (.continued (hb _ _))

theorem ends_division (h : complete ps i body s = .next t) (hc : i.cls ∈ [.div, .idiv, .aam])
    (hb : ∀ ins u, DivideEnds ins u (body ins u)) : Ends i s t := by
  refine ends_of_complete h ?_
  rcases hb (insAt ps i s) (s.start ps i) with hkept | ⟨hm, cause, hreport⟩
  · exact .continued hkept
  · exact .divideError cause hc hm hreport

theorem ends_of_rejected {why : DecodeReason} {bytes : List Byte} (h : rejected ps why bytes s = .next t) :
    Ends i s t := by
  cases h
  exact .decodeError why _ (decodeFailure_sameTuple _ _ _) rfl

end

/-- Every instruction ends in one of the five ways: most rules leave the status as the step began it (R401). -/
theorem runIn_ends (i : Instr) (ps : List Prefix) (s t : State) (h : runIn ps i s = .next t) : Ends i s t := by
  induction i generalizing ps with
  | es j ih | cs j ih | ss j ih | ds j ih | rep j ih | repne j ih => exact (ih _ h).congr rfl rfl
  | lock j ih =>
    rw [runIn] at h
    split at h
    · exact (ih _ h).congr rfl rfl
    · exact ends_of_rejected h
  | invalid why bytes => exact ends_of_rejected h
  | add f | adc f | sub f | sbb f => exact ends_continued h fun _ u => aluStore_status u _ _ f
  | cmp f => exact ends_continued h fun _ u => aluCompare_status u _ _ f
  | inc f | dec f | neg f => exact ends_continued h fun _ u => unaryStore_status u _ _
  | mul f => exact ends_continued h fun _ u => mulBody_status u _ f
  | imul f => exact ends_continued h fun _ u => imulBody_status u _ f
  | div f => exact ends_division h (by simp [Instr.cls]) fun _ u => divBody_ends u _ f
  | idiv f => exact ends_division h (by simp [Instr.cls]) fun _ u => idivBody_ends u _ f
  | aam n => exact ends_division h (by simp [Instr.cls]) fun _ u => aamBody_ends u _ n
  | daa => exact ends_continued h fun _ u => by simp [daaBody]
  | das => exact ends_continued h fun _ u => by simp [dasBody]
  | aaa => exact ends_continued h fun _ u => by simp [aaaBody, apply_ite State.status]
  | aas => exact ends_continued h fun _ u => by simp [aasBody, apply_ite State.status]
  | aad n => exact ends_continued h fun _ u => by simp [aadBody]
  | cbw | cwd | lea g m | lahf => exact ends_continued h fun _ u => u.setR16_status _ _
  | and f | or f | xor f => exact ends_continued h fun _ u => logicStore_status u _ _ f
  | test f => exact ends_continued h fun _ u => by simp [testBody, State.logicResult]
  | not f => exact ends_continued h fun _ u => by simp [notBody]
  | rol f | ror f | rcl f | rcr f => exact ends_continued h fun _ u => rotateBody_status u _ _ _ f
  | shl f | shr f | sar f => exact ends_continued h fun _ u => shiftBody_status u _ _ _ f
  | mov f => exact ends_continued h fun _ u => by simp [movBody]
  | xchg f => exact ends_continued h fun _ u => by simp [xchgBody]
  | nop | wait => exact ends_continued h fun _ u => rfl
  | lds g m => exact ends_continued h fun _ u => by simp [ldsBody]
  | les g m => exact ends_continued h fun _ u => by simp [lesBody]
  | xlat => exact ends_continued h fun _ u => by simp [xlatBody]
  | push f => exact ends_continued h fun _ u => by simp [pushBody]
  | pop f => exact ends_continued h fun _ u => by simp [popBody]
  | pushf => exact ends_continued h fun _ u => u.push16_status _
  | popf => exact ends_continued h fun _ u => u.pop16_status
  | movsb | movsw =>
    exact ends_continued h fun _ u =>
      repeatStep_status u (fun v => by simp [movsOnce, State.advSi, State.advDi]) _ _
  | cmpsb | cmpsw =>
    exact ends_continued h fun _ u =>
      repeatStep_status u (fun v => by simp [cmpsOnce, State.advSi, State.advDi]) _ _
  | scasb | scasw =>
    exact ends_continued h fun _ u => repeatStep_status u (fun v => by simp [scasOnce, State.advDi]) _ _
  | lodsb | lodsw =>
    exact ends_continued h fun _ u => repeatStep_status u (fun v => by simp [lodsOnce, State.advSi]) _ _
  | stosb | stosw =>
    exact ends_continued h fun _ u => repeatStep_status u (fun v => by simp [stosOnce, State.advDi]) _ _
  | jmp f => exact ends_continued h fun _ u => by cases f <;> simp [jmpBody, State.jumpBy]
  | jmpf f => exact ends_continued h fun _ u => by cases f <;> simp [jmpfBody]
  | jo d | jno d | jb d | jnb d | jz d | jnz d | jbe d | ja d | js d | jns d | jp d | jnp d | jl d | jnl d | jle d
  | jg d | jcxz d | loop d | loopz d | loopnz d => exact ends_continued h fun _ u => jumpIf_status _ _ d
  | call f => exact ends_continued h fun _ u => by cases f <;> simp [callBody, State.jumpBy]
  | callf f => exact ends_continued h fun _ u => by cases f <;> simp [callfBody, State.pushReturn]
  | ret f => exact ends_continued h fun _ u => by simp [retBody, release_status]
  | retf f => exact ends_continued h fun _ u => by simp [retfBody, release_status]
  | int n | int3 => exact ends_continued h fun _ u => interruptEntry_status u _
  | into =>
    exact ends_continued h fun _ u => by simp [intoBody, apply_ite State.status, interruptEntry_status]
  | iret => exact ends_continued h fun _ u => interruptReturn_status u
  | inp f => exact ends_continued h fun _ u => by cases f <;> simp [inpBody, State.inAl, State.inAx]
  | out f => exact ends_continued h fun _ u => by cases f <;> simp [outBody]
  | sahf | clc | stc | cmc | cld | std | cli | sti => exact ends_continued h fun _ u => rfl
  | hlt => exact ends_of_complete h (.halted rfl rfl)
  | esc n reg e => exact ends_of_complete h (.unhandled (.inl rfl) rfl)

end Sys2Proof.Machine

open Sys2Proof Sys2Proof.Machine

/-- Settles O60: each status comes about in one of the five ways only. -/
theorem statusOutcomes : Obligations.StatusOutcomes := by
  unfold Obligations.StatusOutcomes
  intro i s t h
  rw [exec_eq_runIn] at h
  cases runIn_ends i [] s t h with
  | continued hs => simp [hs]
  | halted hc hs => simp [hs, hc]
  | divideError cause hc hm hs => simpa [hs, hm] using hc
  | unhandled hu hs => simp [hs, hu]
  | decodeError why bytes ht hs => simp [hs, ht]
end

section
/-! PROOFS. Every execution answers a next state and keeps the parameters of the run (R1206): the first by the shape of
`runIn`, the second because the frame of every instruction keeps them. -/

namespace Sys2Proof.Machine

/-! ### An answer -/

/-- A rule in its frame answers, and so does a rejected encoding (R1100). -/
theorem runIn_answers (i : Instr) (ps : List Prefix) (s : State) : ∃ t, runIn ps i s = .next t := by
  induction i generalizing ps with
  | es j ih | cs j ih | ss j ih | ds j ih | rep j ih | repne j ih => exact ih _
  | lock j ih =>
    rw [runIn]
    split
    · exact ih _
    · exact ⟨_, rfl⟩
  | invalid why bytes => exact ⟨_, rfl⟩
  | _ => exact ⟨_, complete_eq ps _ _ s⟩

theorem exec_answers (i : Instr) (s : State) : ∃ t, exec i s = .next t := by
  rw [exec_eq_runIn]
  exact runIn_answers i [] s

/-! ### A frame for every instruction -/

/-- Every instruction is one without prefixes, under the prefixes around it (R341). -/
theorem exists_eq_wrapAll (i : Instr) : ∃ ps j, isPrefix j = false ∧ i = Prefix.wrapAll ps j := by
  have under (q : Prefix) {j : Instr} (h : ∃ ps k, isPrefix k = false ∧ j = Prefix.wrapAll ps k) :
      ∃ ps k, isPrefix k = false ∧ q.wrap j = Prefix.wrapAll ps k := by
    obtain ⟨ps, k, hk, rfl⟩ := h
    exact ⟨q :: ps, k, hk, rfl⟩
  induction i with
  | es j ih => exact under .es ih
  | cs j ih => exact under .cs ih
  | ss j ih => exact under .ss ih
  | ds j ih => exact under .ds ih
  | rep j ih => exact under .rep ih
  | repne j ih => exact under .repne ih
  | lock j ih => exact under .lock ih
  | _ => exact ⟨[], _, rfl, rfl⟩

/-- The frames of all the families together leave no instruction out. -/
theorem exists_frame {i : Instr} (hi : isPrefix i = false) : ∃ fp, Frame i fp := by
  cases i with
  | es | cs | ss | ds | rep | repne | lock => cases hi
  | add f | adc f | sub f | sbb f | cmp f =>
    obtain ⟨halu, -⟩ := arithmeticFrame
    obtain ⟨hadd, hadc, hsub, hsbb, hcmp⟩ := halu f
    exact ⟨_, by assumption⟩
  | inc f | dec f =>
    obtain ⟨-, hone, -⟩ := arithmeticFrame
    obtain ⟨hinc, hdec⟩ := hone f
    exact ⟨_, by assumption⟩
  | neg f | not f =>
    obtain ⟨-, -, hun⟩ := arithmeticFrame
    obtain ⟨hneg, hnot⟩ := hun f
    exact ⟨_, by assumption⟩
  | and f | or f | xor f =>
    obtain ⟨halu, -⟩ := logicAndShiftFrame
    obtain ⟨hand, hor, hxor⟩ := halu f
    exact ⟨_, by assumption⟩
  | test f =>
    obtain ⟨-, htest, -⟩ := logicAndShiftFrame
    exact ⟨_, htest f⟩
  | rol f | ror f | rcl f | rcr f | shl f | shr f | sar f =>
    obtain ⟨-, -, hshift⟩ := logicAndShiftFrame
    obtain ⟨hrol, hror, hrcl, hrcr, hshl, hshr, hsar⟩ := hshift f
    exact ⟨_, by assumption⟩
  | mul f | imul f | div f | idiv f =>
    obtain ⟨hbyte, hword, -⟩ := multiplyDivideAdjustFrame
    cases f with
    | eb e =>
      obtain ⟨hmul, himul, hdiv, hidiv⟩ := hbyte e
      exact ⟨_, by assumption⟩
    | ew e =>
      obtain ⟨hmul, himul, hdiv, hidiv⟩ := hword e
      exact ⟨_, by assumption⟩
  | daa | das | aaa | aas | cbw | cwd =>
    obtain ⟨-, -, hdaa, hdas, haaa, haas, -, hcbw, hcwd⟩ := multiplyDivideAdjustFrame
    exact ⟨_, by assumption⟩
  | aam n | aad n =>
    obtain ⟨-, -, -, -, -, -, hbase, -⟩ := multiplyDivideAdjustFrame
    obtain ⟨haam, haad⟩ := hbase n
    exact ⟨_, by assumption⟩
  | mov f =>
    obtain ⟨hmov, -⟩ := transferFrame
    exact ⟨_, hmov f⟩
  | xchg f =>
    obtain ⟨-, hxchg, -⟩ := transferFrame
    exact ⟨_, hxchg f⟩
  | lea g m | lds g m | les g m =>
    obtain ⟨-, -, -, hload, -⟩ := transferFrame
    obtain ⟨hlea, hlds, hles⟩ := hload g m
    exact ⟨_, by assumption⟩
  | push f | pop f =>
    obtain ⟨-, -, -, -, -, -, -, hstack, -⟩ := transferFrame
    obtain ⟨hpush, hpop⟩ := hstack f
    exact ⟨_, by assumption⟩
  | nop | xlat | lahf | sahf | pushf | popf =>
    obtain ⟨-, -, hnop, -, hxlat, hlahf, hsahf, -, hpushf, hpopf⟩ := transferFrame
    exact ⟨_, by assumption⟩
  | movsb | movsw | cmpsb | cmpsw | scasb | scasw | lodsb | lodsw | stosb | stosw =>
    obtain ⟨hmovsb, hmovsw, hcmpsb, hcmpsw, hscasb, hscasw, hlodsb, hlodsw, hstosb, hstosw⟩ := stringFrame
    exact ⟨_, by assumption⟩
  | jmp f =>
    obtain ⟨hjmp, -⟩ := controlTransferFrame
    exact ⟨_, hjmp f⟩
  | jmpf f =>
    obtain ⟨-, hjmpf, -⟩ := controlTransferFrame
    exact ⟨_, hjmpf f⟩
  | jo d | jno d | jb d | jnb d | jz d | jnz d | jbe d | ja d | js d | jns d | jp d | jnp d | jl d | jnl d | jle d
  | jg d | jcxz d | loop d | loopz d | loopnz d =>
    obtain ⟨-, -, hjump, -⟩ := controlTransferFrame
    obtain ⟨hjo, hjno, hjb, hjnb, hjz, hjnz, hjbe, hja, hjs, hjns, hjp, hjnp, hjl, hjnl, hjle, hjg, hjcxz, hloop,
      hloopz, hloopnz⟩ := hjump d
    exact ⟨_, by assumption⟩
  | call f =>
    obtain ⟨-, -, -, hcall, -⟩ := controlTransferFrame
    exact ⟨_, hcall f⟩
  | callf f =>
    obtain ⟨-, -, -, -, hcallf, -⟩ := controlTransferFrame
    exact ⟨_, hcallf f⟩
  | ret f | retf f =>
    obtain ⟨-, -, -, -, -, hreturn, -⟩ := controlTransferFrame
    obtain ⟨hret, hretf⟩ := hreturn f
    exact ⟨_, by assumption⟩
  | int n =>
    obtain ⟨-, -, -, -, -, -, hint, -⟩ := controlTransferFrame
    exact ⟨_, hint n⟩
  | int3 | into | iret =>
    obtain ⟨-, -, -, -, -, -, -, hint3, hinto, hiret⟩ := controlTransferFrame
    exact ⟨_, by assumption⟩
  | inp f | out f =>
    obtain ⟨hport, hinAl, hinAx, houtAl, houtAx, -⟩ := portAndMiscFrame
    cases f with
    | alib p | axib p =>
      obtain ⟨hinAl, hinAx, houtAl, houtAx⟩ := hport p
      exact ⟨_, by assumption⟩
    | aldx | axdx => exact ⟨_, by assumption⟩
  | clc | stc | cmc | cld | std | cli | sti | hlt | wait =>
    obtain ⟨-, -, -, -, -, hclc, hstc, hcmc, hcld, hstd, hcli, hsti, hhlt, hwait, -⟩ := portAndMiscFrame
    exact ⟨_, by assumption⟩
  | esc n reg e =>
    obtain ⟨-, -, -, -, -, -, -, -, -, -, -, -, -, -, hesc, -⟩ := portAndMiscFrame
    exact ⟨_, hesc n reg e⟩
  | invalid why bytes => exact ⟨fun _ _ => {}, frame_invalid why bytes _⟩

/-! ### The parameters -/

theorem exec_params {i : Instr} {s t : State} (h : exec i s = .next t) : t.params = s.params := by
  obtain ⟨ps, j, hj, rfl⟩ := exists_eq_wrapAll i
  obtain ⟨fp, hframe⟩ := exists_frame hj
  exact (hframe ps s t h).params_eq

theorem exec_answers_params (i : Instr) (s : State) : ∃ t, exec i s = .next t ∧ t.params = s.params := by
  obtain ⟨t, ht⟩ := exec_answers i s
  exact ⟨t, ht, exec_params ht⟩

end Sys2Proof.Machine

open Sys2Proof Sys2Proof.Machine

/-- Settles O8: a step is an execution from the fetched state, and fetching writes no parameter. -/
theorem stepAlwaysAnswers : Obligations.StepAlwaysAnswers := by
  unfold Obligations.StepAlwaysAnswers
  exact ⟨fun s => exec_answers_params s.current s.fetched, exec_answers_params⟩
end

section
/-! PROOFS. The bytes of an encoding in a stream (R344): where they stand, and that a ModRM operand stands there
exactly when decoding reads it there (R310 to R315). -/

namespace Sys2Proof.Machine

/-! ### Bytes in a stream -/

/-- These bytes stand in the stream from position `k` on. -/
def StandsAt (c : Code) : Nat → List Byte → Prop
  | _, [] => True
  | k, b :: bs => c k = b ∧ StandsAt c (k + 1) bs

theorem standsAt_append {c : Code} {k : Nat} {as bs : List Byte} :
    StandsAt c k (as ++ bs) ↔ StandsAt c k as ∧ StandsAt c (k + as.length) bs := by
  induction as generalizing k with
  | nil => simp [StandsAt]
  | cons a as ih => simp [StandsAt, ih, and_assoc, Nat.add_assoc, Nat.add_comm 1]

theorem standsAt_shift {c : Code} {j k : Nat} {bs : List Byte} :
    StandsAt (fun x => c (x + j)) k bs ↔ StandsAt c (k + j) bs := by
  induction bs generalizing k with
  | nil => exact Iff.rfl
  | cons b bs ih => simp only [StandsAt, ih, Nat.add_right_comm]

theorem standsAt_congr {c d : Code} {k : Nat} {bs : List Byte} (h : ∀ j, j < k + bs.length → c j = d j) :
    StandsAt c k bs → StandsAt d k bs := by
  induction bs generalizing k with
  | nil => exact id
  | cons b bs ih =>
    rintro ⟨hb, hbs⟩
    refine ⟨(h k (by simp)).symm.trans hb, ih (fun j hj => h j ?_) hbs⟩
    rw [List.length_cons]
    omega

theorem standsAt_iff_getD {c : Code} {k : Nat} {bs : List Byte} :
    StandsAt c k bs ↔ ∀ j, j < bs.length → c (k + j) = bs.getD j 0#8 := by
  induction bs generalizing k with
  | nil => simp [StandsAt]
  | cons b bs ih =>
    rw [StandsAt, ih, List.length_cons, Nat.forall_lt_succ_left]
    simp [Nat.add_assoc, Nat.add_comm 1]

theorem StandsAt.eq_map {c : Code} {bs : List Byte} (h : StandsAt c 0 bs) : bs = (List.range bs.length).map c := by
  refine List.ext_getElem (by simp) fun j hj _ => ?_
  have hbyte := standsAt_iff_getD.mp h j hj
  rw [Nat.zero_add, List.getD_eq_getElem _ _ hj] at hbyte
  simp [hbyte]

theorem standsAt_wordBytes {c : Code} {k : Nat} {v : Word} : StandsAt c k (wordBytes v) ↔ v = wordAt c k := by
  simp only [StandsAt, wordBytes, and_true, wordAt, wordOf]
  constructor
  · rintro ⟨hlo, hhi⟩
    rw [hlo, hhi]
    exact (BitVec.extractLsb'_append_extractLsb' (w := 8) (len := 8)).symm
  · rintro rfl
    exact ⟨BitVec.extractLsb'_append_eq_right.symm, BitVec.extractLsb'_append_eq_left.symm⟩

/-! ### ModRM operands -/

@[simp] theorem modField_modrmByte (mod : BitVec 2) (reg rm : BitVec 3) : modField (modrmByte mod reg rm) = mod :=
  (BitVec.extractLsb'_append_eq_of_le (by decide)).trans BitVec.extractLsb'_append_eq_left

@[simp] theorem regField_modrmByte (mod : BitVec 2) (reg rm : BitVec 3) : regField (modrmByte mod reg rm) = reg :=
  (BitVec.extractLsb'_append_eq_of_le le_rfl).trans BitVec.extractLsb'_append_eq_right

@[simp] theorem rmField_modrmByte (mod : BitVec 2) (reg rm : BitVec 3) : rmField (modrmByte mod reg rm) = rm :=
  BitVec.extractLsb'_append_eq_right

/-- A ModRM byte is its three fields (R310). -/
theorem modrmByte_fields (b : Byte) : modrmByte (modField b) (regField b) (rmField b) = b := by
  rw [modrmByte, modField, regField, rmField,
    BitVec.extractLsb'_append_extractLsb'_eq_extractLsb' (start₂ := 6) (start₁ := 3) (len₁ := 3) rfl]
  exact BitVec.extractLsb'_append_extractLsb' (w := 5) (len := 3)

theorem eq_modrmByte {b : Byte} {mod : BitVec 2} {reg rm : BitVec 3} (hmod : modField b = mod)
    (hreg : reg = regField b) (hrm : rm = rmField b) : b = modrmByte mod reg rm := by
  rw [← hmod, hreg, hrm, modrmByte_fields]

/-! #### Numbers of registers and combinations (R102, R110, R311) -/

theorem reg16_ofNum_num (r : Reg16) : Reg16.ofNum r.num = r := by cases r <;> rfl
theorem reg16_num_ofNum (k : BitVec 3) : (Reg16.ofNum k).num = k := by revert k; decide
theorem reg8_ofNum_num (r : Reg8) : Reg8.ofNum r.num = r := by cases r <;> rfl
theorem reg8_num_ofNum (k : BitVec 3) : (Reg8.ofNum k).num = k := by revert k; decide
theorem base_ofNum_num (b : Base) : Base.ofNum b.num = b := by cases b <;> rfl
theorem base_num_ofNum (k : BitVec 3) : (Base.ofNum k).num = k := by revert k; decide
theorem sreg_num_eq_iff {g : SReg} {k : BitVec 3} : g.num = k ↔ SReg.ofNum? k = some g := by
  revert k; cases g <;> decide

/-! #### Operands -/

theorem eq_two_of_ne {x : BitVec 2} : x.toNat ≠ 0 → x.toNat ≠ 1 → x ≠ 3#2 → x = 2#2 := by
  revert x; decide

/-- A memory operand stands after the opcode exactly when decoding reads it there (R312, R313). -/
theorem standsAt_memOp {c : Code} {reg : BitVec 3} {m : MemOp} :
    StandsAt c 1 (m.encode reg) ∧ m.wf = true ↔
      modField (c 1) ≠ 3#2 ∧ reg = regField (c 1) ∧ m = memOpAt c := by
  constructor
  · rintro ⟨hm, hwf⟩
    cases m with
    | indirect b =>
      obtain ⟨h1, -⟩ := hm
      have hb : b.num ≠ 6#3 := fun h6 =>
        of_decide_eq_true hwf (by rw [← base_ofNum_num b, h6]; rfl)
      simp [memOpAt, h1, hb, base_ofNum_num]
    | disp8 b d =>
      obtain ⟨h1, rfl, -⟩ := hm
      simp [memOpAt, h1, base_ofNum_num]
    | disp16 b d =>
      obtain ⟨h1, hd⟩ := hm
      simp [memOpAt, h1, base_ofNum_num, standsAt_wordBytes.mp hd]
    | direct off =>
      obtain ⟨h1, hoff⟩ := hm
      simp [memOpAt, h1, standsAt_wordBytes.mp hoff]
  · rintro ⟨hmod, hreg, rfl⟩
    rw [memOpAt]
    split
    next h0 =>
      have h0 : modField (c 1) = 0#2 := BitVec.eq_of_toNat_eq h0
      split
      next h6 => exact ⟨⟨eq_modrmByte h0 hreg h6.symm, standsAt_wordBytes.mpr rfl⟩, rfl⟩
      next h6 =>
        refine ⟨⟨eq_modrmByte h0 hreg (base_num_ofNum _), trivial⟩, decide_eq_true fun hbp => h6 ?_⟩
        rw [← base_num_ofNum (rmField (c 1)), hbp, Base.num]
    next h1 => exact ⟨⟨eq_modrmByte (BitVec.eq_of_toNat_eq h1) hreg (base_num_ofNum _), rfl, trivial⟩, rfl⟩
    next h0 h1 =>
      exact ⟨⟨eq_modrmByte (eq_two_of_ne h0 h1 hmod) hreg (base_num_ofNum _), standsAt_wordBytes.mpr rfl⟩, rfl⟩

section
variable {ρ : Type} {num : ρ → BitVec 3} {ofNum : BitVec 3 → ρ} {c : Code} {reg : BitVec 3} {e : Rm ρ}

/-- An operand stands after the opcode exactly when decoding reads it there (R313, R314). -/
theorem standsAt_rm (hleft : ∀ r, ofNum (num r) = r) (hright : ∀ k, num (ofNum k) = k) :
    StandsAt c 1 (e.encode num reg) ∧ e.wf = true ↔ reg = regField (c 1) ∧ e = rmOpAt ofNum c := by
  rw [rmOpAt]
  cases e with
  | reg r =>
    constructor
    · rintro ⟨⟨h1, -⟩, -⟩
      simp [h1, hleft]
    · rintro ⟨hreg, he⟩
      split at he
      next h3 =>
        obtain rfl := Rm.reg.inj he
        exact ⟨⟨eq_modrmByte h3 hreg (hright _), trivial⟩, rfl⟩
      next => cases he
  | mem m =>
    refine standsAt_memOp.trans ⟨fun ⟨hmod, hreg, hm⟩ => ⟨hreg, ?_⟩, fun ⟨hreg, he⟩ => ?_⟩
    · rw [if_neg hmod, hm]
    · split at he
      next => cases he
      next h3 => exact ⟨h3, hreg, Rm.mem.inj he⟩

/-- The displacement has the length that the ModRM byte selects (R313). -/
theorem dlen_rmOpAt (ofNum : BitVec 3 → ρ) (c : Code) : (rmOpAt ofNum c).dlen = dispLen (c 1) := by
  rw [rmOpAt, dispLen]
  split
  next h3 => rw [h3]; rfl
  next h3 =>
    rw [Rm.dlen, memOpAt]
    split
    next h0 => rw [h0]; split <;> rfl
    next h1 => rw [h1]; rfl
    next h0 h1 => rw [eq_two_of_ne h0 h1 h3]; rfl

/-- What follows an operand stands at the position of an immediate (R315). -/
theorem standsAt_rm_append (hleft : ∀ r, ofNum (num r) = r) (hright : ∀ k, num (ofNum k) = k) {bs : List Byte} :
    StandsAt c 1 (e.encode num reg ++ bs) ∧ e.wf = true ↔
      reg = regField (c 1) ∧ e = rmOpAt ofNum c ∧ StandsAt c (immPos c) bs := by
  rw [standsAt_append, and_right_comm, standsAt_rm hleft hright, and_assoc]
  refine and_congr_right fun _ => and_congr_right fun he => ?_
  rw [Laws.Size.rm, he, dlen_rmOpAt, immPos, ← Nat.add_assoc]

end

end Sys2Proof.Machine
end

section
/-! PROOFS. The opcode map decodes the encoding of every instruction without prefixes (R346, R360): each lemma takes the
bytes of a form apart and looks the opcode up. -/

namespace Sys2Proof.Machine

/-! ### Opcodes -/

/-- The rows of the opcode map by high nibble (R320). -/
def opcodeRows : List (Nat → Code → DecodeResult) :=
  [opcodeRow0, opcodeRow1, opcodeRow2, opcodeRow3, fun lo _ => opcodeRow4 lo, fun lo _ => opcodeRow5 lo,
    fun _ _ => .error .invalidOpcode 1, opcodeRow7, opcodeRow8, opcodeRow9, opcodeRowA, opcodeRowB, opcodeRowC,
    opcodeRowD, opcodeRowE, opcodeRowF]

/-- The opcode map with the opcode byte given apart from the stream, so that a literal one computes. -/
def opcodeMap (b : Byte) (c : Code) : DecodeResult := opcodeRows.getD (b.toNat / 16) opcodeRowF (b.toNat % 16) c

theorem decodeBody_eq_opcodeMap (c : Code) : decodeBody c = opcodeMap (c 0) c := by
  have hhi : (c 0).toNat / 16 < 16 := by omega
  unfold decodeBody opcodeMap
  generalize (c 0).toNat / 16 = hi at hhi ⊢
  interval_cases hi <;> rfl

theorem decodeBody_of_opcode {c : Code} {b : Byte} {r : DecodeResult} (h0 : c 0 = b) (hmap : opcodeMap b c = r) :
    decodeBody c = r := by
  rw [decodeBody_eq_opcodeMap, h0, hmap]

theorem bitVec3_cases (x : BitVec 3) :
    x = 0#3 ∨ x = 1#3 ∨ x = 2#3 ∨ x = 3#3 ∨ x = 4#3 ∨ x = 5#3 ∨ x = 6#3 ∨ x = 7#3 := by
  revert x; decide

section
variable {c : Code} {b : Byte} {reg : BitVec 3}

/-! #### The forms: an opcode, the operands of R330 and R331 after it, and what decoding reads for each -/

theorem num_eq_regField8 {g : Reg8} : g.num = regField (c 1) ↔ g = gbAt c := by
  rw [gbAt]
  exact ⟨fun h => by rw [← h, reg8_ofNum_num], fun h => by rw [h, reg8_num_ofNum]⟩

theorem num_eq_regField16 {g : Reg16} : g.num = regField (c 1) ↔ g = gwAt c := by
  rw [gwAt]
  exact ⟨fun h => by rw [← h, reg16_ofNum_num], fun h => by rw [h, reg16_num_ofNum]⟩

theorem standsAt_eb {e : Rm Reg8} : StandsAt c 0 (b :: encB reg e) ∧ e.wf = true ↔
    c 0 = b ∧ reg = regField (c 1) ∧ e = ebAt c :=
  and_assoc.trans (and_congr_right fun _ => standsAt_rm reg8_ofNum_num reg8_num_ofNum)

theorem standsAt_ew {e : Rm Reg16} : StandsAt c 0 (b :: encW reg e) ∧ e.wf = true ↔
    c 0 = b ∧ reg = regField (c 1) ∧ e = ewAt c :=
  and_assoc.trans (and_congr_right fun _ => standsAt_rm reg16_ofNum_num reg16_num_ofNum)

theorem standsAt_ez {e : Rm (BitVec 3)} : StandsAt c 0 (b :: e.encode id reg) ∧ e.wf = true ↔
    c 0 = b ∧ reg = regField (c 1) ∧ e = ezAt c :=
  and_assoc.trans (and_congr_right fun _ => standsAt_rm (fun _ => rfl) fun _ => rfl)

theorem standsAt_mem {m : MemOp} : StandsAt c 0 (b :: m.encode reg) ∧ m.wf = true ↔
    c 0 = b ∧ modField (c 1) ≠ 3#2 ∧ reg = regField (c 1) ∧ m = memOpAt c :=
  and_assoc.trans (and_congr_right fun _ => standsAt_memOp)

theorem standsAt_ebib {e : Rm Reg8} {v : Byte} : StandsAt c 0 (b :: encB reg e ++ [v]) ∧ e.wf = true ↔
    c 0 = b ∧ reg = regField (c 1) ∧ e = ebAt c ∧ v = c (immPos c) := by
  refine and_assoc.trans (and_congr_right fun _ => (standsAt_rm_append reg8_ofNum_num reg8_num_ofNum).trans ?_)
  rw [StandsAt, StandsAt, and_true, eq_comm (a := v)]
  rfl

theorem standsAt_ewib {e : Rm Reg16} {v : Byte} : StandsAt c 0 (b :: encW reg e ++ [v]) ∧ e.wf = true ↔
    c 0 = b ∧ reg = regField (c 1) ∧ e = ewAt c ∧ v = c (immPos c) := by
  refine and_assoc.trans (and_congr_right fun _ => (standsAt_rm_append reg16_ofNum_num reg16_num_ofNum).trans ?_)
  rw [StandsAt, StandsAt, and_true, eq_comm (a := v)]
  rfl

theorem standsAt_ewiw {e : Rm Reg16} {v : Word} : StandsAt c 0 (b :: encW reg e ++ wordBytes v) ∧ e.wf = true ↔
    c 0 = b ∧ reg = regField (c 1) ∧ e = ewAt c ∧ v = wordAt c (immPos c) := by
  refine and_assoc.trans (and_congr_right fun _ => (standsAt_rm_append reg16_ofNum_num reg16_num_ofNum).trans ?_)
  rw [standsAt_wordBytes]
  rfl

theorem standsAt_ebgb {e : Rm Reg8} {g : Reg8} : StandsAt c 0 (b :: encB g.num e) ∧ e.wf = true ↔
    c 0 = b ∧ g = gbAt c ∧ e = ebAt c := by
  rw [standsAt_eb, num_eq_regField8]

theorem standsAt_ewgw {e : Rm Reg16} {g : Reg16} : StandsAt c 0 (b :: encW g.num e) ∧ e.wf = true ↔
    c 0 = b ∧ g = gwAt c ∧ e = ewAt c := by
  rw [standsAt_ew, num_eq_regField16]

theorem standsAt_mgw {m : MemOp} {g : Reg16} : StandsAt c 0 (b :: m.encode g.num) ∧ m.wf = true ↔
    c 0 = b ∧ modField (c 1) ≠ 3#2 ∧ g = gwAt c ∧ m = memOpAt c := by
  rw [standsAt_mem, num_eq_regField16]

theorem standsAt_iw {v : Word} : StandsAt c 0 (b :: wordBytes v) ↔ c 0 = b ∧ v = wordAt c 1 :=
  and_congr_right fun _ => standsAt_wordBytes

theorem standsAt_ptr {seg off : Word} : StandsAt c 0 (b :: wordBytes off ++ wordBytes seg) ↔
    c 0 = b ∧ off = wordAt c 1 ∧ seg = wordAt c 3 := by
  refine and_congr_right fun _ => standsAt_append.trans ?_
  rw [standsAt_wordBytes, standsAt_wordBytes]
  rfl

/-! ### Decoding an encoding -/

/-- The primary opcodes of the ALU operations: the operation in bits 5..3, the form below (R440). -/
theorem decodeBody_primary (op : BitVec 3) {k : Nat} (hk : k < 6) (h0 : c 0 = 0#2 ++ op ++ BitVec.ofNat 3 k) :
    decodeBody c = .ok (aluInstr op.toNat (aluFormAt k c)) := by
  rcases bitVec3_cases op with rfl | rfl | rfl | rfl | rfl | rfl | rfl | rfl <;> interval_cases k
  all_goals exact decodeBody_of_opcode h0 rfl

theorem decodeBody_alu (op : BitVec 3) {f : AluForm} (h : StandsAt c 0 (f.encode op)) (hw : f.wf = true) :
    decodeBody c = .ok (aluInstr op.toNat f) := by
  cases f with
  | ebgb e g =>
    obtain ⟨h0, rfl, rfl⟩ := standsAt_ebgb.mp ⟨h, hw⟩
    exact decodeBody_primary op (k := 0) (by decide) h0
  | ewgw e g =>
    obtain ⟨h0, rfl, rfl⟩ := standsAt_ewgw.mp ⟨h, hw⟩
    exact decodeBody_primary op (k := 1) (by decide) h0
  | gbeb g e =>
    obtain ⟨h0, rfl, rfl⟩ := standsAt_ebgb.mp ⟨h, hw⟩
    exact decodeBody_primary op (k := 2) (by decide) h0
  | gwew g e =>
    obtain ⟨h0, rfl, rfl⟩ := standsAt_ewgw.mp ⟨h, hw⟩
    exact decodeBody_primary op (k := 3) (by decide) h0
  | alib v =>
    obtain ⟨h0, rfl, -⟩ := h
    exact decodeBody_primary op (k := 4) (by decide) h0
  | axiw v =>
    obtain ⟨h0, rfl⟩ := standsAt_iw.mp h
    exact decodeBody_primary op (k := 5) (by decide) h0
  | ebib e v | ebibAlias e v =>
    obtain ⟨h0, rfl, rfl, rfl⟩ := standsAt_ebib.mp ⟨h, hw⟩
    exact decodeBody_of_opcode h0 rfl
  | ewiw e v =>
    obtain ⟨h0, rfl, rfl, rfl⟩ := standsAt_ewiw.mp ⟨h, hw⟩
    exact decodeBody_of_opcode h0 rfl
  | ewibs e v =>
    obtain ⟨h0, rfl, rfl, rfl⟩ := standsAt_ewib.mp ⟨h, hw⟩
    exact decodeBody_of_opcode h0 rfl

theorem group3_test {t : TestForm} {f : UnForm} (hreg : 0#3 = regField (c 1)) : group3 c t f = .ok (.test t) := by
  rw [group3, ← hreg]
  rfl

theorem decodeBody_test {f : TestForm} (h : StandsAt c 0 f.encode) (hw : f.wf = true) :
    decodeBody c = .ok (.test f) := by
  cases f with
  | ebgb e g =>
    obtain ⟨h0, rfl, rfl⟩ := standsAt_ebgb.mp ⟨h, hw⟩
    exact decodeBody_of_opcode h0 rfl
  | ewgw e g =>
    obtain ⟨h0, rfl, rfl⟩ := standsAt_ewgw.mp ⟨h, hw⟩
    exact decodeBody_of_opcode h0 rfl
  | alib v =>
    obtain ⟨h0, rfl, -⟩ := h
    exact decodeBody_of_opcode h0 rfl
  | axiw v =>
    obtain ⟨h0, rfl⟩ := standsAt_iw.mp h
    exact decodeBody_of_opcode h0 rfl
  | ebib e v =>
    obtain ⟨h0, hreg, rfl, rfl⟩ := standsAt_ebib.mp ⟨h, hw⟩
    exact (decodeBody_of_opcode h0 rfl).trans (group3_test hreg)
  | ewiw e v =>
    obtain ⟨h0, hreg, rfl, rfl⟩ := standsAt_ewiw.mp ⟨h, hw⟩
    exact (decodeBody_of_opcode h0 rfl).trans (group3_test hreg)

theorem decodeBody_unForm {f : UnForm} (h : StandsAt c 0 (f.encode reg)) (hw : f.wf = true) :
    ∃ t, decodeBody c = group3 c t f ∧ reg = regField (c 1) := by
  cases f with
  | eb e =>
    obtain ⟨h0, hreg, rfl⟩ := standsAt_eb.mp ⟨h, hw⟩
    exact ⟨_, decodeBody_of_opcode h0 rfl, hreg⟩
  | ew e =>
    obtain ⟨h0, hreg, rfl⟩ := standsAt_ew.mp ⟨h, hw⟩
    exact ⟨_, decodeBody_of_opcode h0 rfl, hreg⟩

theorem decodeBody_shiftForm {f : ShiftForm} (h : StandsAt c 0 (f.encode reg)) (hw : f.wf = true) :
    decodeBody c = shiftInstr c f ∧ reg = regField (c 1) := by
  cases f with
  | eb1 e | ebcl e =>
    obtain ⟨h0, hreg, rfl⟩ := standsAt_eb.mp ⟨h, hw⟩
    exact ⟨decodeBody_of_opcode h0 rfl, hreg⟩
  | ew1 e | ewcl e =>
    obtain ⟨h0, hreg, rfl⟩ := standsAt_ew.mp ⟨h, hw⟩
    exact ⟨decodeBody_of_opcode h0 rfl, hreg⟩

theorem decodeBody_group4 {e : Rm Reg8} (h : StandsAt c 0 (0xFE#8 :: encB reg e)) (hw : e.wf = true) :
    decodeBody c = group4 c ∧ reg = regField (c 1) ∧ e = ebAt c := by
  obtain ⟨h0, hreg, he⟩ := standsAt_eb.mp ⟨h, hw⟩
  exact ⟨decodeBody_of_opcode h0 rfl, hreg, he⟩

theorem decodeBody_group5 {e : Rm Reg16} (h : StandsAt c 0 (0xFF#8 :: encW reg e)) (hw : e.wf = true) :
    decodeBody c = group5 c ∧ reg = regField (c 1) ∧ e = ewAt c := by
  obtain ⟨h0, hreg, he⟩ := standsAt_ew.mp ⟨h, hw⟩
  exact ⟨decodeBody_of_opcode h0 rfl, hreg, he⟩

theorem memOnly_of_ne (k : MemOp → Instr) (h : modField (c 1) ≠ 3#2) : memOnly c k = .ok (k (memOpAt c)) := if_neg h

theorem group0_of_eq (i : Instr) (h : 0#3 = regField (c 1)) : group0 c i = .ok i := if_pos h.symm

theorem movFromSreg_of_num {g : SReg} (h : g.num = regField (c 1)) :
    movFromSreg c = .ok (.mov (.ewsw (ewAt c) g)) := by
  rw [movFromSreg, sreg_num_eq_iff.mp h]

theorem movToSreg_of_num {g : SReg} (h : g.num = regField (c 1)) (hg : g ≠ .cs) :
    movToSreg c = .ok (.mov (.swew g (ewAt c))) := by
  rw [movToSreg, sreg_num_eq_iff.mp h]
  cases g
  case cs => exact absurd rfl hg
  all_goals rfl

theorem decodeBody_mov {f : MovForm} (h : StandsAt c 0 f.encode) (hw : f.wf = true) :
    decodeBody c = .ok (.mov f) := by
  cases f with
  | ebgb e g | gbeb g e =>
    obtain ⟨h0, rfl, rfl⟩ := standsAt_ebgb.mp ⟨h, hw⟩
    exact decodeBody_of_opcode h0 rfl
  | ewgw e g | gwew g e =>
    obtain ⟨h0, rfl, rfl⟩ := standsAt_ewgw.mp ⟨h, hw⟩
    exact decodeBody_of_opcode h0 rfl
  | ewsw e g =>
    obtain ⟨h0, hreg, rfl⟩ := standsAt_ew.mp ⟨h, hw⟩
    exact decodeBody_of_opcode h0 (movFromSreg_of_num hreg)
  | swew g e =>
    obtain ⟨hg, hwe⟩ := Bool.and_eq_true_iff.mp hw
    obtain ⟨h0, hreg, rfl⟩ := standsAt_ew.mp ⟨h, hwe⟩
    exact decodeBody_of_opcode h0 (movToSreg_of_num hreg (of_decide_eq_true hg))
  | alob off | axow off | obal off | owax off =>
    obtain ⟨h0, rfl⟩ := standsAt_iw.mp h
    exact decodeBody_of_opcode h0 rfl
  | r8ib r v =>
    obtain ⟨h0, rfl, -⟩ := h
    cases r <;> exact decodeBody_of_opcode h0 rfl
  | r16iw r v =>
    obtain ⟨h0, rfl⟩ := standsAt_iw.mp h
    cases r <;> exact decodeBody_of_opcode h0 rfl
  | ebib e v =>
    obtain ⟨h0, hreg, rfl, rfl⟩ := standsAt_ebib.mp ⟨h, hw⟩
    exact decodeBody_of_opcode h0 (group0_of_eq _ hreg)
  | ewiw e v =>
    obtain ⟨h0, hreg, rfl, rfl⟩ := standsAt_ewiw.mp ⟨h, hw⟩
    exact decodeBody_of_opcode h0 (group0_of_eq _ hreg)

theorem decodeBody_xchg {f : XchgForm} (h : StandsAt c 0 f.encode) (hw : f.wf = true) :
    decodeBody c = .ok (.xchg f) := by
  cases f with
  | ebgb e g =>
    obtain ⟨h0, rfl, rfl⟩ := standsAt_ebgb.mp ⟨h, hw⟩
    exact decodeBody_of_opcode h0 rfl
  | ewgw e g =>
    obtain ⟨h0, rfl, rfl⟩ := standsAt_ewgw.mp ⟨h, hw⟩
    exact decodeBody_of_opcode h0 rfl
  | axr16 r =>
    cases r
    case ax => cases hw
    all_goals exact decodeBody_of_opcode h.1 rfl

theorem decodeBody_push {f : StackForm} (h : StandsAt c 0 f.encodePush) (hw : f.wf = true) :
    decodeBody c = .ok (.push f) := by
  cases f with
  | r16 r => cases r <;> exact decodeBody_of_opcode h.1 rfl
  | sreg g => cases g <;> exact decodeBody_of_opcode h.1 rfl
  | ew e =>
    obtain ⟨hbody, hreg, rfl⟩ := decodeBody_group5 h hw
    rw [hbody, group5, ← hreg]; rfl

theorem decodeBody_pop {f : StackForm} (h : StandsAt c 0 f.encodePop) (hw : f.wf = true) (hcs : f ≠ .sreg .cs) :
    decodeBody c = .ok (.pop f) := by
  cases f with
  | r16 r => cases r <;> exact decodeBody_of_opcode h.1 rfl
  | sreg g =>
    cases g
    case cs => exact absurd rfl hcs
    all_goals exact decodeBody_of_opcode h.1 rfl
  | ew e =>
    obtain ⟨h0, hreg, rfl⟩ := standsAt_ew.mp ⟨h, hw⟩
    exact decodeBody_of_opcode h0 (group0_of_eq _ hreg)

theorem decodeBody_jmp {f : JmpForm} (h : StandsAt c 0 f.encode) (hw : f.wf = true) :
    decodeBody c = .ok (.jmp f) := by
  cases f with
  | short d =>
    obtain ⟨h0, rfl, -⟩ := h
    exact decodeBody_of_opcode h0 rfl
  | near d =>
    obtain ⟨h0, rfl⟩ := standsAt_iw.mp h
    exact decodeBody_of_opcode h0 rfl
  | ind e =>
    obtain ⟨hbody, hreg, rfl⟩ := decodeBody_group5 h hw
    rw [hbody, group5, ← hreg]; rfl

theorem decodeBody_call {f : CallForm} (h : StandsAt c 0 f.encode) (hw : f.wf = true) :
    decodeBody c = .ok (.call f) := by
  cases f with
  | near d =>
    obtain ⟨h0, rfl⟩ := standsAt_iw.mp h
    exact decodeBody_of_opcode h0 rfl
  | ind e =>
    obtain ⟨hbody, hreg, rfl⟩ := decodeBody_group5 h hw
    rw [hbody, group5, ← hreg]; rfl

end

/-- The instruction has an encoding, and its bytes stand at the start of the stream. -/
def Encodes (p : Params) (c : Code) (i : Instr) : Prop := StandsAt c 0 i.encode ∧ i.wf p = true

/-- The opcode map decodes the encoding of every instruction without prefixes to it (R346). -/
theorem decodeBody_of_encodes {p : Params} {c : Code} {i : Instr} (hi : isPrefix i = false) (he : Encodes p c i) :
    decodeBody c = .ok i := by
  obtain ⟨h, hw⟩ := he
  cases i with
  | es | cs | ss | ds | rep | repne | lock => cases hi
  | invalid why bytes => cases hw
  | add f | adc f | sub f | sbb f | cmp f | and f | or f | xor f => exact decodeBody_alu _ h hw
  | inc f | dec f =>
    cases f with
    | r16 r => cases r <;> exact decodeBody_of_opcode h.1 rfl
    | eb e =>
      obtain ⟨hbody, hreg, rfl⟩ := decodeBody_group4 h hw
      rw [hbody, group4, ← hreg]; rfl
    | ew e =>
      obtain ⟨hbody, hreg, rfl⟩ := decodeBody_group5 h hw
      rw [hbody, group5, ← hreg]; rfl
  | neg f | mul f | imul f | div f | idiv f | not f =>
    obtain ⟨t, hbody, hreg⟩ := decodeBody_unForm h hw
    rw [hbody, group3, ← hreg]; rfl
  | rol f | ror f | rcl f | rcr f | shl f | shr f | sar f =>
    obtain ⟨hbody, hreg⟩ := decodeBody_shiftForm h hw
    rw [hbody, shiftInstr, ← hreg]; rfl
  | test f => exact decodeBody_test h hw
  | mov f => exact decodeBody_mov h hw
  | xchg f => exact decodeBody_xchg h hw
  | lea g m | lds g m | les g m =>
    obtain ⟨h0, hmod, rfl, rfl⟩ := standsAt_mgw.mp ⟨h, hw⟩
    exact decodeBody_of_opcode h0 (memOnly_of_ne _ hmod)
  | push f => exact decodeBody_push h hw
  | pop f =>
    obtain ⟨hwf, hcs⟩ := Bool.and_eq_true_iff.mp hw
    exact decodeBody_pop h hwf (of_decide_eq_true hcs)
  | jmp f => exact decodeBody_jmp h hw
  | call f => exact decodeBody_call h hw
  | jmpf f | callf f =>
    cases f with
    | ptr seg off =>
      obtain ⟨h0, rfl, rfl⟩ := standsAt_ptr.mp h
      exact decodeBody_of_opcode h0 rfl
    | ind m =>
      obtain ⟨h0, hmod, hreg, rfl⟩ := standsAt_mem.mp ⟨h, hw⟩
      refine (decodeBody_of_opcode h0 rfl).trans (?_ : group5 c = _)
      rw [group5, ← hreg]
      exact memOnly_of_ne _ hmod
  | ret f | retf f =>
    cases f with
    | plain => exact decodeBody_of_opcode h.1 rfl
    | imm v =>
      obtain ⟨h0, rfl⟩ := standsAt_iw.mp h
      exact decodeBody_of_opcode h0 rfl
  | inp f | out f =>
    cases f with
    | alib v | axib v =>
      obtain ⟨h0, rfl, -⟩ := h
      exact decodeBody_of_opcode h0 rfl
    | aldx | axdx => exact decodeBody_of_opcode h.1 rfl
  | esc n reg e =>
    obtain ⟨h0, rfl, rfl⟩ := standsAt_ez.mp ⟨h, hw⟩
    rcases bitVec3_cases n with rfl | rfl | rfl | rfl | rfl | rfl | rfl | rfl
    all_goals exact decodeBody_of_opcode h0 rfl
  | aam n | aad n | int n | jo n | jno n | jb n | jnb n | jz n | jnz n | jbe n | ja n | js n | jns n | jp n | jnp n
  | jl n | jnl n | jle n | jg n | jcxz n | loop n | loopz n | loopnz n =>
    obtain ⟨h0, rfl, -⟩ := h
    exact decodeBody_of_opcode h0 rfl
  | _ => exact decodeBody_of_opcode h.1 rfl

end Sys2Proof.Machine
end

section
/-! PROOFS. What the opcode map answers, opcode by opcode (R350, R360, R361): `BodySpec` says it once, for the
instructions and for the errors. -/

namespace Sys2Proof.Machine

/-! ### What the opcode map answers -/

/-- What the opcode map answers at `c`: an instruction encoded there, and R350 does not list its opcode; or an error,
which R350 lists, and which depends on the bytes read only. -/
def BodySpec (p : Params) (c : Code) : DecodeResult → Prop
  | .ok i => Encodes p c i ∧ listedInvalid p (c 0) (c 1) = false
  | .error why n => listedInvalid p (c 0) (c 1) = true ∧ (why = .invalidOpcode ∨ why = .badModrm) ∧ 1 ≤ n ∧
      ∀ d : Code, (∀ k, k < n → c k = d k) → decodeBody d = .error why n

section
variable {p : Params} {c : Code} {b : Byte}

theorem bodySpec_ok {i : Instr} (h0 : c 0 = b) (hl : listedInvalid p b (c 1) = false) (he : Encodes p c i) :
    BodySpec p c (.ok i) := by
  subst h0
  exact ⟨he, hl⟩

/-- An opcode that stands for no instruction (R350). -/
theorem bodySpec_undefined (h0 : c 0 = b) (hl : listedInvalid p b (c 1) = true)
    (hmap : ∀ d, opcodeMap b d = .error .invalidOpcode 1) : BodySpec p c (.error .invalidOpcode 1) := by
  subst h0
  exact ⟨hl, .inl rfl, le_rfl, fun d hd => decodeBody_of_opcode (hd 0 (by decide)).symm (hmap d)⟩

/-- An opcode that the ModRM byte makes invalid (R350). -/
theorem bodySpec_rejected {why : DecodeReason} {n : Nat} (h0 : c 0 = b) (hl : listedInvalid p b (c 1) = true)
    (hwhy : why = .invalidOpcode ∨ why = .badModrm) (hn : 2 ≤ n)
    (hmap : ∀ d : Code, d 1 = c 1 → opcodeMap b d = .error why n) : BodySpec p c (.error why n) := by
  subst h0
  exact ⟨hl, hwhy, by omega,
    fun d hd => decodeBody_of_opcode (hd 0 (by omega)).symm (hmap d (hd 1 (by omega)).symm)⟩

theorem encodes_aluInstr {op : BitVec 3} {f : AluForm} (h : StandsAt c 0 (f.encode op) ∧ f.wf = true) :
    Encodes p c (aluInstr op.toNat f) := by
  rcases bitVec3_cases op with rfl | rfl | rfl | rfl | rfl | rfl | rfl | rfl <;> exact h

/-- The primary opcodes of the ALU operations. -/
theorem bodySpec_primary (op : BitVec 3) {k : Nat} (hk : k < 6) (h0 : c 0 = 0#2 ++ op ++ BitVec.ofNat 3 k) :
    BodySpec p c (.ok (aluInstr op.toNat (aluFormAt k c))) := by
  have hl : listedInvalid p (0#2 ++ op ++ BitVec.ofNat 3 k) (c 1) = false := by
    rcases bitVec3_cases op with rfl | rfl | rfl | rfl | rfl | rfl | rfl | rfl <;> interval_cases k <;> rfl
  have he : StandsAt c 0 ((aluFormAt k c).encode op) ∧ (aluFormAt k c).wf = true := by
    interval_cases k
    · exact standsAt_ebgb.mpr ⟨h0, rfl, rfl⟩
    · exact standsAt_ewgw.mpr ⟨h0, rfl, rfl⟩
    · exact standsAt_ebgb.mpr ⟨h0, rfl, rfl⟩
    · exact standsAt_ewgw.mpr ⟨h0, rfl, rfl⟩
    · exact ⟨⟨h0, rfl, trivial⟩, rfl⟩
    · exact ⟨standsAt_iw.mpr ⟨h0, rfl⟩, rfl⟩
  exact bodySpec_ok h0 hl (encodes_aluInstr he)

/-! #### Groups -/

/-- Group 2 (R324). -/
theorem bodySpec_shift {f : Code → ShiftForm} {reg : BitVec 3} (h0 : c 0 = b) (hreg : reg = regField (c 1))
    (hl : listedInvalid p b (c 1) = decide (reg = 6#3)) (hmap : ∀ d, opcodeMap b d = shiftInstr d (f d))
    (h : StandsAt c 0 ((f c).encode reg) ∧ (f c).wf = true) : BodySpec p c (shiftInstr c (f c)) := by
  rcases bitVec3_cases reg with rfl | rfl | rfl | rfl | rfl | rfl | rfl | rfl <;> rw [shiftInstr, ← hreg]
  iterate 6 exact bodySpec_ok h0 hl h
  · exact bodySpec_rejected h0 hl (.inl rfl) le_rfl fun d hd => by rw [hmap, shiftInstr, hd, ← hreg]; rfl
  · exact bodySpec_ok h0 hl h

/-- Group 3 (R325). -/
theorem bodySpec_group3 {t : Code → TestForm} {f : Code → UnForm} {reg : BitVec 3} (h0 : c 0 = b)
    (hreg : reg = regField (c 1)) (hl : listedInvalid p b (c 1) = decide (reg = 1#3))
    (hmap : ∀ d, opcodeMap b d = group3 d (t d) (f d)) (ht : reg = 0#3 → Encodes p c (.test (t c)))
    (h : StandsAt c 0 ((f c).encode reg) ∧ (f c).wf = true) : BodySpec p c (group3 c (t c) (f c)) := by
  rcases bitVec3_cases reg with rfl | rfl | rfl | rfl | rfl | rfl | rfl | rfl <;> rw [group3, ← hreg]
  · exact bodySpec_ok h0 hl (ht rfl)
  · exact bodySpec_rejected h0 hl (.inl rfl) le_rfl fun d hd => by rw [hmap, group3, hd, ← hreg]; rfl
  iterate 6 exact bodySpec_ok h0 hl h

/-- The groups of one instruction (R326). -/
theorem bodySpec_group0 {i : Code → Instr} (h0 : c 0 = b)
    (hl : listedInvalid p b (c 1) = decide (regField (c 1) ≠ 0#3)) (hmap : ∀ d, opcodeMap b d = group0 d (i d))
    (h : 0#3 = regField (c 1) → Encodes p c (i c)) : BodySpec p c (group0 c (i c)) := by
  rw [group0]
  split
  next hreg => exact bodySpec_ok h0 (hl.trans (decide_eq_false (not_not.mpr hreg))) (h hreg.symm)
  next hreg =>
    exact bodySpec_rejected h0 (hl.trans (decide_eq_true hreg)) (.inl rfl) le_rfl fun d hd => by
      rw [hmap, group0, hd, if_neg hreg]

/-- An operand that has to be in memory (R334). -/
theorem bodySpec_memOnly {k : MemOp → Instr} (h0 : c 0 = b)
    (hl : listedInvalid p b (c 1) = decide (modField (c 1) = 3#2))
    (hmap : ∀ d : Code, d 1 = c 1 → ∃ k', opcodeMap b d = memOnly d k')
    (h : modField (c 1) ≠ 3#2 → Encodes p c (k (memOpAt c))) : BodySpec p c (memOnly c k) := by
  rw [memOnly]
  split
  next hmod =>
    exact bodySpec_rejected h0 (hl.trans (decide_eq_true hmod)) (.inr rfl) le_rfl fun d hd => by
      obtain ⟨k', hk⟩ := hmap d hd
      rw [hk, memOnly, hd, if_pos hmod]
  next hmod => exact bodySpec_ok h0 (hl.trans (decide_eq_false hmod)) (h hmod)

/-- 0xFE (R326). -/
theorem bodySpec_group4 (h0 : c 0 = 0xFE#8) : BodySpec p c (group4 c) := by
  have hl : listedInvalid p 0xFE#8 (c 1) = decide (2 ≤ (regField (c 1)).toNat) := by simp [listedInvalid]
  have hmap (d : Code) : opcodeMap 0xFE#8 d = group4 d := rfl
  obtain ⟨h, hw⟩ := standsAt_eb.mpr ⟨h0, rfl, rfl⟩
  generalize hreg : regField (c 1) = reg at h hl
  rcases bitVec3_cases reg with rfl | rfl | rfl | rfl | rfl | rfl | rfl | rfl <;> rw [group4, hreg]
  iterate 2 exact bodySpec_ok h0 hl ⟨h, hw⟩
  iterate 6 exact bodySpec_rejected h0 hl (.inl rfl) le_rfl fun d hd => by rw [hmap, group4, hd, hreg]; rfl

/-- 0xFF (R326). -/
theorem bodySpec_group5 (h0 : c 0 = 0xFF#8) : BodySpec p c (group5 c) := by
  have hl : listedInvalid p 0xFF#8 (c 1) =
      decide (regField (c 1) = 7#3 ∨ regField (c 1) ∈ [3#3, 5#3] ∧ modField (c 1) = 3#2) := by simp [listedInvalid]
  have hmap (d : Code) : opcodeMap 0xFF#8 d = group5 d := rfl
  obtain ⟨h, hw⟩ := standsAt_ew.mpr ⟨h0, rfl, rfl⟩
  have hmem (hmod : modField (c 1) ≠ 3#2) := standsAt_mem.mpr ⟨h0, hmod, rfl, rfl⟩
  generalize hreg : regField (c 1) = reg at h hl hmem
  rcases bitVec3_cases reg with rfl | rfl | rfl | rfl | rfl | rfl | rfl | rfl <;> rw [group5, hreg]
  iterate 3 exact bodySpec_ok h0 hl ⟨h, hw⟩
  · exact bodySpec_memOnly h0 (hl.trans (by simp)) (fun d hd => ⟨_, by rw [hmap, group5, hd, hreg]; rfl⟩) hmem
  · exact bodySpec_ok h0 hl ⟨h, hw⟩
  · exact bodySpec_memOnly h0 (hl.trans (by simp)) (fun d hd => ⟨_, by rw [hmap, group5, hd, hreg]; rfl⟩) hmem
  · exact bodySpec_ok h0 hl ⟨h, hw⟩
  · exact bodySpec_rejected h0 hl (.inl rfl) le_rfl fun d hd => by rw [hmap, group5, hd, hreg]; rfl

/-- 0x8C (R333). -/
theorem bodySpec_movFromSreg (h0 : c 0 = 0x8C#8) : BodySpec p c (movFromSreg c) := by
  have hl : listedInvalid p 0x8C#8 (c 1) = decide (4 ≤ (regField (c 1)).toNat) := by simp [listedInvalid]
  have hmap (d : Code) : opcodeMap 0x8C#8 d = movFromSreg d := rfl
  obtain ⟨h, hw⟩ := standsAt_ew.mpr ⟨h0, rfl, rfl⟩
  generalize hreg : regField (c 1) = reg at h hl
  rcases bitVec3_cases reg with rfl | rfl | rfl | rfl | rfl | rfl | rfl | rfl <;> rw [movFromSreg, hreg]
  iterate 4 exact bodySpec_ok h0 hl ⟨h, hw⟩
  all_goals
    exact bodySpec_rejected h0 hl (.inr rfl) (Nat.le_add_right 2 _) fun d hd => by
      rw [hmap, movFromSreg, immPos, hd, hreg]; rfl

/-- 0x8E (R333). -/
theorem bodySpec_movToSreg (h0 : c 0 = 0x8E#8) : BodySpec p c (movToSreg c) := by
  have hl : listedInvalid p 0x8E#8 (c 1) = decide (4 ≤ (regField (c 1)).toNat ∨ regField (c 1) = 1#3) := by
    simp [listedInvalid]
  have hmap (d : Code) : opcodeMap 0x8E#8 d = movToSreg d := rfl
  obtain ⟨h, hw⟩ := standsAt_ew.mpr ⟨h0, rfl, rfl⟩
  generalize hreg : regField (c 1) = reg at h hl
  rcases bitVec3_cases reg with rfl | rfl | rfl | rfl | rfl | rfl | rfl | rfl <;> rw [movToSreg, hreg]
  · exact bodySpec_ok h0 hl ⟨h, hw⟩
  · exact bodySpec_rejected h0 hl (.inr rfl) le_rfl fun d hd => by rw [hmap, movToSreg, hd, hreg]; rfl
  iterate 2 exact bodySpec_ok h0 hl ⟨h, hw⟩
  iterate 4 exact bodySpec_rejected h0 hl (.inr rfl) le_rfl fun d hd => by rw [hmap, movToSreg, hd, hreg]; rfl

end

/-! #### Rows -/

section
variable {p : Params} {c : Code} {lo : Nat} (hlo : lo < 16)
include hlo

theorem bodySpec_row0 (h0 : c 0 = BitVec.ofNat 8 (0x00 + lo)) : BodySpec p c (opcodeRow0 lo c) := by
  interval_cases lo
  iterate 6 exact bodySpec_primary 0#3 (by decide) h0
  iterate 2 exact bodySpec_ok h0 rfl ⟨⟨h0, trivial⟩, rfl⟩
  iterate 6 exact bodySpec_primary 1#3 (by decide) h0
  · exact bodySpec_ok h0 rfl ⟨⟨h0, trivial⟩, rfl⟩
  · exact bodySpec_undefined h0 rfl fun _ => rfl

theorem bodySpec_row1 (h0 : c 0 = BitVec.ofNat 8 (0x10 + lo)) : BodySpec p c (opcodeRow1 lo c) := by
  interval_cases lo
  iterate 6 exact bodySpec_primary 2#3 (by decide) h0
  iterate 2 exact bodySpec_ok h0 rfl ⟨⟨h0, trivial⟩, rfl⟩
  iterate 6 exact bodySpec_primary 3#3 (by decide) h0
  iterate 2 exact bodySpec_ok h0 rfl ⟨⟨h0, trivial⟩, rfl⟩

theorem bodySpec_row2 (hp : prefixAt p (c 0) = none) (h0 : c 0 = BitVec.ofNat 8 (0x20 + lo)) :
    BodySpec p c (opcodeRow2 lo c) := by
  interval_cases lo
  iterate 6 exact bodySpec_primary 4#3 (by decide) h0
  · rw [h0] at hp; cases hp
  · exact bodySpec_ok h0 rfl ⟨⟨h0, trivial⟩, rfl⟩
  iterate 6 exact bodySpec_primary 5#3 (by decide) h0
  · rw [h0] at hp; cases hp
  · exact bodySpec_ok h0 rfl ⟨⟨h0, trivial⟩, rfl⟩

theorem bodySpec_row3 (hp : prefixAt p (c 0) = none) (h0 : c 0 = BitVec.ofNat 8 (0x30 + lo)) :
    BodySpec p c (opcodeRow3 lo c) := by
  interval_cases lo
  iterate 6 exact bodySpec_primary 6#3 (by decide) h0
  · rw [h0] at hp; cases hp
  · exact bodySpec_ok h0 rfl ⟨⟨h0, trivial⟩, rfl⟩
  iterate 6 exact bodySpec_primary 7#3 (by decide) h0
  · rw [h0] at hp; cases hp
  · exact bodySpec_ok h0 rfl ⟨⟨h0, trivial⟩, rfl⟩

theorem bodySpec_row4 (h0 : c 0 = BitVec.ofNat 8 (0x40 + lo)) : BodySpec p c (opcodeRow4 lo) := by
  interval_cases lo
  all_goals exact bodySpec_ok h0 rfl ⟨⟨h0, trivial⟩, rfl⟩

theorem bodySpec_row5 (h0 : c 0 = BitVec.ofNat 8 (0x50 + lo)) : BodySpec p c (opcodeRow5 lo) := by
  interval_cases lo
  all_goals exact bodySpec_ok h0 rfl ⟨⟨h0, trivial⟩, rfl⟩

theorem bodySpec_row6 (h0 : c 0 = BitVec.ofNat 8 (0x60 + lo)) : BodySpec p c (.error .invalidOpcode 1) := by
  interval_cases lo
  all_goals exact bodySpec_undefined h0 rfl fun _ => rfl

theorem bodySpec_row7 (h0 : c 0 = BitVec.ofNat 8 (0x70 + lo)) : BodySpec p c (opcodeRow7 lo c) := by
  interval_cases lo
  all_goals exact bodySpec_ok h0 rfl ⟨⟨h0, rfl, trivial⟩, rfl⟩

theorem bodySpec_row8 (h0 : c 0 = BitVec.ofNat 8 (0x80 + lo)) : BodySpec p c (opcodeRow8 lo c) := by
  interval_cases lo
  · exact bodySpec_ok h0 rfl (encodes_aluInstr (f := .ebib _ _) (standsAt_ebib.mpr ⟨h0, rfl, rfl, rfl⟩))
  · exact bodySpec_ok h0 rfl (encodes_aluInstr (f := .ewiw _ _) (standsAt_ewiw.mpr ⟨h0, rfl, rfl, rfl⟩))
  · exact bodySpec_ok h0 rfl (encodes_aluInstr (f := .ebibAlias _ _) (standsAt_ebib.mpr ⟨h0, rfl, rfl, rfl⟩))
  · exact bodySpec_ok h0 rfl (encodes_aluInstr (f := .ewibs _ _) (standsAt_ewib.mpr ⟨h0, rfl, rfl, rfl⟩))
  iterate 4
    · exact bodySpec_ok h0 rfl (standsAt_ebgb.mpr ⟨h0, rfl, rfl⟩)
    · exact bodySpec_ok h0 rfl (standsAt_ewgw.mpr ⟨h0, rfl, rfl⟩)
  · exact bodySpec_movFromSreg h0
  · exact bodySpec_memOnly h0 (by simp [listedInvalid]) (fun d _ => ⟨_, rfl⟩)
      fun hmod => standsAt_mgw.mpr ⟨h0, hmod, rfl, rfl⟩
  · exact bodySpec_movToSreg h0
  · refine bodySpec_group0 h0 (by simp [listedInvalid]) (fun d => rfl) fun hreg => ?_
    obtain ⟨h, hw⟩ := standsAt_ew.mpr ⟨h0, hreg, rfl⟩
    exact ⟨h, Bool.and_eq_true_iff.mpr ⟨hw, rfl⟩⟩

theorem bodySpec_row9 (h0 : c 0 = BitVec.ofNat 8 (0x90 + lo)) : BodySpec p c (opcodeRow9 lo c) := by
  interval_cases lo
  iterate 10 exact bodySpec_ok h0 rfl ⟨⟨h0, trivial⟩, rfl⟩
  · exact bodySpec_ok h0 rfl ⟨standsAt_ptr.mpr ⟨h0, rfl, rfl⟩, rfl⟩
  iterate 5 exact bodySpec_ok h0 rfl ⟨⟨h0, trivial⟩, rfl⟩

theorem bodySpec_rowA (h0 : c 0 = BitVec.ofNat 8 (0xA0 + lo)) : BodySpec p c (opcodeRowA lo c) := by
  interval_cases lo
  iterate 4 exact bodySpec_ok h0 rfl ⟨standsAt_iw.mpr ⟨h0, rfl⟩, rfl⟩
  iterate 4 exact bodySpec_ok h0 rfl ⟨⟨h0, trivial⟩, rfl⟩
  · exact bodySpec_ok h0 rfl ⟨⟨h0, rfl, trivial⟩, rfl⟩
  · exact bodySpec_ok h0 rfl ⟨standsAt_iw.mpr ⟨h0, rfl⟩, rfl⟩
  iterate 6 exact bodySpec_ok h0 rfl ⟨⟨h0, trivial⟩, rfl⟩

theorem bodySpec_rowB (h0 : c 0 = BitVec.ofNat 8 (0xB0 + lo)) : BodySpec p c (opcodeRowB lo c) := by
  interval_cases lo
  iterate 8 exact bodySpec_ok h0 rfl ⟨⟨h0, rfl, trivial⟩, rfl⟩
  iterate 8 exact bodySpec_ok h0 rfl ⟨standsAt_iw.mpr ⟨h0, rfl⟩, rfl⟩

theorem bodySpec_rowC (h0 : c 0 = BitVec.ofNat 8 (0xC0 + lo)) : BodySpec p c (opcodeRowC lo c) := by
  interval_cases lo
  iterate 2 exact bodySpec_undefined h0 rfl fun _ => rfl
  · exact bodySpec_ok h0 rfl ⟨standsAt_iw.mpr ⟨h0, rfl⟩, rfl⟩
  · exact bodySpec_ok h0 rfl ⟨⟨h0, trivial⟩, rfl⟩
  iterate 2
    exact bodySpec_memOnly h0 (by simp [listedInvalid]) (fun d _ => ⟨_, rfl⟩)
      fun hmod => standsAt_mgw.mpr ⟨h0, hmod, rfl, rfl⟩
  · exact bodySpec_group0 h0 (by simp [listedInvalid]) (fun d => rfl)
      fun hreg => standsAt_ebib.mpr ⟨h0, hreg, rfl, rfl⟩
  · exact bodySpec_group0 h0 (by simp [listedInvalid]) (fun d => rfl)
      fun hreg => standsAt_ewiw.mpr ⟨h0, hreg, rfl, rfl⟩
  iterate 2 exact bodySpec_undefined h0 rfl fun _ => rfl
  · exact bodySpec_ok h0 rfl ⟨standsAt_iw.mpr ⟨h0, rfl⟩, rfl⟩
  iterate 2 exact bodySpec_ok h0 rfl ⟨⟨h0, trivial⟩, rfl⟩
  · exact bodySpec_ok h0 rfl ⟨⟨h0, rfl, trivial⟩, rfl⟩
  iterate 2 exact bodySpec_ok h0 rfl ⟨⟨h0, trivial⟩, rfl⟩

theorem bodySpec_rowD (h0 : c 0 = BitVec.ofNat 8 (0xD0 + lo)) : BodySpec p c (opcodeRowD lo c) := by
  interval_cases lo
  iterate 2
    · exact bodySpec_shift h0 rfl (by simp [listedInvalid]) (fun d => rfl) (standsAt_eb.mpr ⟨h0, rfl, rfl⟩)
    · exact bodySpec_shift h0 rfl (by simp [listedInvalid]) (fun d => rfl) (standsAt_ew.mpr ⟨h0, rfl, rfl⟩)
  iterate 2 exact bodySpec_ok h0 rfl ⟨⟨h0, rfl, trivial⟩, rfl⟩
  · exact bodySpec_undefined h0 rfl fun _ => rfl
  · exact bodySpec_ok h0 rfl ⟨⟨h0, trivial⟩, rfl⟩
  iterate 8 exact bodySpec_ok h0 rfl (standsAt_ez.mpr ⟨h0, rfl, rfl⟩)

theorem bodySpec_rowE (h0 : c 0 = BitVec.ofNat 8 (0xE0 + lo)) : BodySpec p c (opcodeRowE lo c) := by
  interval_cases lo
  iterate 8 exact bodySpec_ok h0 rfl ⟨⟨h0, rfl, trivial⟩, rfl⟩
  iterate 2 exact bodySpec_ok h0 rfl ⟨standsAt_iw.mpr ⟨h0, rfl⟩, rfl⟩
  · exact bodySpec_ok h0 rfl ⟨standsAt_ptr.mpr ⟨h0, rfl, rfl⟩, rfl⟩
  · exact bodySpec_ok h0 rfl ⟨⟨h0, rfl, trivial⟩, rfl⟩
  iterate 4 exact bodySpec_ok h0 rfl ⟨⟨h0, trivial⟩, rfl⟩

theorem bodySpec_rowF (hp : prefixAt p (c 0) = none) (h0 : c 0 = BitVec.ofNat 8 (0xF0 + lo)) :
    BodySpec p c (opcodeRowF lo c) := by
  interval_cases lo
  · have hlock : p.lockPrefix = .invalid := by
      cases hl : p.lockPrefix with
      | invalid => rfl
      | ignore => rw [h0, prefixAt, hl] at hp; cases hp
    exact bodySpec_undefined h0 (by simp [listedInvalid, hlock]) fun _ => rfl
  · exact bodySpec_undefined h0 rfl fun _ => rfl
  iterate 2
    rw [h0] at hp; cases hp
  iterate 2 exact bodySpec_ok h0 rfl ⟨⟨h0, trivial⟩, rfl⟩
  · exact bodySpec_group3 h0 rfl (by simp [listedInvalid]) (fun d => rfl)
      (fun hreg => standsAt_ebib.mpr ⟨h0, hreg.symm, rfl, rfl⟩) (standsAt_eb.mpr ⟨h0, rfl, rfl⟩)
  · exact bodySpec_group3 h0 rfl (by simp [listedInvalid]) (fun d => rfl)
      (fun hreg => standsAt_ewiw.mpr ⟨h0, hreg.symm, rfl, rfl⟩) (standsAt_ew.mpr ⟨h0, rfl, rfl⟩)
  iterate 6 exact bodySpec_ok h0 rfl ⟨⟨h0, trivial⟩, rfl⟩
  · exact bodySpec_group4 h0
  · exact bodySpec_group5 h0

end

theorem bodySpec_decodeBody {p : Params} {c : Code} (hp : prefixAt p (c 0) = none) : BodySpec p c (decodeBody c) := by
  have hhi : (c 0).toNat / 16 < 16 := by omega
  have hlo : (c 0).toNat % 16 < 16 := Nat.mod_lt _ (by decide)
  have h0 : c 0 = BitVec.ofNat 8 (16 * ((c 0).toNat / 16) + (c 0).toNat % 16) := by
    rw [Nat.div_add_mod, BitVec.ofNat_toNat, BitVec.setWidth_eq]
  unfold decodeBody
  generalize (c 0).toNat / 16 = hi at hhi h0 ⊢
  generalize (c 0).toNat % 16 = lo at hlo h0 ⊢
  interval_cases hi
  · exact bodySpec_row0 hlo h0
  · exact bodySpec_row1 hlo h0
  · exact bodySpec_row2 hlo hp h0
  · exact bodySpec_row3 hlo hp h0
  · exact bodySpec_row4 hlo h0
  · exact bodySpec_row5 hlo h0
  · exact bodySpec_row6 hlo h0
  · exact bodySpec_row7 hlo h0
  · exact bodySpec_row8 hlo h0
  · exact bodySpec_row9 hlo h0
  · exact bodySpec_rowA hlo h0
  · exact bodySpec_rowB hlo h0
  · exact bodySpec_rowC hlo h0
  · exact bodySpec_rowD hlo h0
  · exact bodySpec_rowE hlo h0
  · exact bodySpec_rowF hlo hp h0

end Sys2Proof.Machine
end

section
/-! PROOFS. Decoding and encoding (R344 to R346): the loop over prefixes around the opcode map, its length limit (R309),
and which bytes it reads. -/

namespace Sys2Proof.Machine

/-! ### Lengths -/

theorem memOp_dlen_le (m : MemOp) : m.dlen ≤ 2 := by cases m <;> simp [MemOp.dlen]

theorem rm_dlen_le {ρ : Type} (e : Rm ρ) : e.dlen ≤ 2 := by
  cases e with
  | reg r => exact Nat.zero_le 2
  | mem m => exact memOp_dlen_le m

/-- The lengths of instructions without prefixes. -/
def ShortLen (n : Nat) : Prop := 1 ≤ n ∧ n ≤ 6

theorem shortLen_of_ble {n : Nat} (h : (Nat.ble 1 n && Nat.ble n 6) = true) : ShortLen n := by
  simpa [ShortLen] using h

theorem shortLen_add_dlen {ρ : Type} {k : Nat} (e : Rm ρ) (h1 : 1 ≤ k) (h4 : k ≤ 4) : ShortLen (k + e.dlen) :=
  ⟨Nat.le_add_right_of_le h1, Nat.add_le_add h4 (rm_dlen_le e)⟩

theorem shortLen_add_memDlen (m : MemOp) : ShortLen (2 + m.dlen) :=
  ⟨Nat.le_add_right_of_le (by decide), Nat.add_le_add (by decide : 2 ≤ 4) (memOp_dlen_le m)⟩

theorem shortLen_alu (f : AluForm) : ShortLen f.len := by
  cases f with
  | alib v | axiw v => exact shortLen_of_ble rfl
  | _ => exact shortLen_add_dlen _ (by decide) (by decide)

theorem shortLen_test (f : TestForm) : ShortLen f.len := by
  cases f with
  | alib v | axiw v => exact shortLen_of_ble rfl
  | _ => exact shortLen_add_dlen _ (by decide) (by decide)

theorem shortLen_inc (f : IncForm) : ShortLen f.len := by
  cases f with
  | r16 r => exact shortLen_of_ble rfl
  | _ => exact shortLen_add_dlen _ (by decide) (by decide)

theorem shortLen_un (f : UnForm) : ShortLen f.len := by
  cases f <;> exact shortLen_add_dlen _ (by decide) (by decide)

theorem shortLen_shift (f : ShiftForm) : ShortLen f.len := by
  cases f <;> exact shortLen_add_dlen _ (by decide) (by decide)

theorem shortLen_mov (f : MovForm) : ShortLen f.len := by
  cases f with
  | alob v | axow v | obal v | owax v | r8ib r v | r16iw r v => exact shortLen_of_ble rfl
  | _ => exact shortLen_add_dlen _ (by decide) (by decide)

theorem shortLen_xchg (f : XchgForm) : ShortLen f.len := by
  cases f with
  | axr16 r => exact shortLen_of_ble rfl
  | _ => exact shortLen_add_dlen _ (by decide) (by decide)

theorem shortLen_stack (f : StackForm) : ShortLen f.len := by
  cases f with
  | r16 r | sreg g => exact shortLen_of_ble rfl
  | ew e => exact shortLen_add_dlen e (by decide) (by decide)

theorem shortLen_jmp (f : JmpForm) : ShortLen f.len := by
  cases f with
  | short d | near d => exact shortLen_of_ble rfl
  | ind e => exact shortLen_add_dlen e (by decide) (by decide)

theorem shortLen_call (f : CallForm) : ShortLen f.len := by
  cases f with
  | near d => exact shortLen_of_ble rfl
  | ind e => exact shortLen_add_dlen e (by decide) (by decide)

theorem shortLen_far (f : FarForm) : ShortLen f.len := by
  cases f with
  | ptr seg off => exact shortLen_of_ble rfl
  | ind m => exact shortLen_add_memDlen m

theorem shortLen_ret (f : RetForm) : ShortLen f.len := by
  cases f <;> exact shortLen_of_ble rfl

theorem shortLen_port (f : PortForm) : ShortLen f.len := by
  cases f <;> exact shortLen_of_ble rfl

/-- An instruction without prefixes that has an encoding takes one to six bytes (R301). -/
theorem shortLen_of_wf {p : Params} {i : Instr} (hi : isPrefix i = false) (hw : i.wf p = true) : ShortLen i.len := by
  cases i with
  | es | cs | ss | ds | rep | repne | lock => cases hi
  | invalid why bytes => cases hw
  | add f | adc f | sub f | sbb f | cmp f | and f | or f | xor f => exact shortLen_alu f
  | inc f | dec f => exact shortLen_inc f
  | neg f | mul f | imul f | div f | idiv f | not f => exact shortLen_un f
  | rol f | ror f | rcl f | rcr f | shl f | shr f | sar f => exact shortLen_shift f
  | test f => exact shortLen_test f
  | mov f => exact shortLen_mov f
  | xchg f => exact shortLen_xchg f
  | lea g m | lds g m | les g m => exact shortLen_add_memDlen m
  | push f | pop f => exact shortLen_stack f
  | jmp f => exact shortLen_jmp f
  | call f => exact shortLen_call f
  | jmpf f | callf f => exact shortLen_far f
  | ret f | retf f => exact shortLen_ret f
  | inp f | out f => exact shortLen_port f
  | esc n reg e => exact shortLen_add_dlen e (by decide) (by decide)
  | _ => exact shortLen_of_ble rfl

/-! ### The prefixes before an instruction -/

theorem decodeWithin_succ_none {p : Params} {room : Nat} {c : Code} (h : prefixAt p (c 0) = none) :
    decodeWithin p (room + 1) c = (decodeBody c).fit (room + 1) := by
  rw [decodeWithin, h]

theorem decodeWithin_succ_some {p : Params} {room : Nat} {c : Code} {q : Prefix} (h : prefixAt p (c 0) = some q) :
    decodeWithin p (room + 1) c = (decodeWithin p room fun k => c (k + 1)).under q := by
  rw [decodeWithin, h]

theorem prefixAt_eq_some_iff {p : Params} {b : Byte} {q : Prefix} :
    prefixAt p b = some q ↔ b = q.byte ∧ (q = .lock → p.lockPrefix = .ignore) := by
  constructor
  · intro h
    unfold prefixAt at h
    split_ifs at h with hes hcs hss hds hrep hrepne hlock <;> cases h
    · exact ⟨hes, nofun⟩
    · exact ⟨hcs, nofun⟩
    · exact ⟨hss, nofun⟩
    · exact ⟨hds, nofun⟩
    · exact ⟨hrep, nofun⟩
    · exact ⟨hrepne, nofun⟩
    · exact ⟨hlock.1, fun _ => hlock.2⟩
  · rintro ⟨rfl, hlock⟩
    cases q
    case lock => simp [prefixAt, Prefix.byte, hlock]
    all_goals rfl

theorem prefixAt_congr {p q : Params} (h : p.lockPrefix = q.lockPrefix) (b : Byte) : prefixAt p b = prefixAt q b := by
  rw [prefixAt, prefixAt, h]

theorem wf_wrap {p : Params} {q : Prefix} {i : Instr} :
    (q.wrap i).wf p = true ↔ (q = .lock → p.lockPrefix = .ignore) ∧ i.wf p = true := by
  cases q <;> simp [Prefix.wrap, Instr.wf]

theorem wf_of_wrapAll {p : Params} {ps : List Prefix} {i : Instr} (h : (Prefix.wrapAll ps i).wf p = true) :
    i.wf p = true := by
  induction ps with
  | nil => exact h
  | cons q ps ih => exact ih (wf_wrap.mp h).2

/-- A prefixed instruction is encoded as a byte that decoding takes for its outermost `Prefix`, and the rest. -/
theorem encodes_wrap {p : Params} {c : Code} {q : Prefix} {i : Instr} :
    Encodes p c (q.wrap i) ↔ prefixAt p (c 0) = some q ∧ Encodes p (fun k => c (k + 1)) i := by
  have hencode : (q.wrap i).encode = q.byte :: i.encode := by cases q <;> rfl
  rw [Encodes, Encodes, wf_wrap, hencode, StandsAt, prefixAt_eq_some_iff, standsAt_shift, and_and_and_comm]

/-- The bytes given by position, as the statements give them. -/
theorem encodes_of_getD {p : Params} {c : Code} {i : Instr} (hw : i.wf p = true)
    (h : ∀ k, k < i.len → c k = i.encode.getD k 0#8) : Encodes p c i := by
  have hlen : i.encode.length = i.len := Laws.Size.every i
  refine ⟨standsAt_iff_getD.mpr fun k hk => ?_, hw⟩
  rw [Nat.zero_add]
  exact h k (hlen ▸ hk)

/-- The opcode map rejects the bytes of prefixes: the loop before it has taken them (R346). -/
theorem prefixAt_of_decodeBody_ok {p : Params} {c : Code} {i : Instr} (h : decodeBody c = .ok i) :
    prefixAt p (c 0) = none := by
  cases hq : prefixAt p (c 0) with
  | none => rfl
  | some q =>
    obtain ⟨h0, -⟩ := prefixAt_eq_some_iff.mp hq
    have herror : decodeBody c = .error .invalidOpcode 1 := by cases q <;> exact decodeBody_of_opcode h0 rfl
    cases herror.symm.trans h

/-! ### Decoding an encoding -/

/-- An encoding decodes to its instruction, or is too long (R309, R346). -/
theorem decodeWithin_of_encodes {p : Params} {room : Nat} {c : Code} {ps : List Prefix} {i : Instr}
    (hi : isPrefix i = false) (he : Encodes p c (Prefix.wrapAll ps i)) (hroom : ps.length < room) :
    decodeWithin p room c = if ps.length + i.len ≤ room then .ok (Prefix.wrapAll ps i)
      else .error .tooLong (ps.length + i.len) := by
  induction ps generalizing room c with
  | nil =>
    have hbody := decodeBody_of_encodes hi he
    obtain ⟨room, rfl⟩ := Nat.exists_eq_add_one.mpr hroom
    rw [decodeWithin_succ_none (prefixAt_of_decodeBody_ok hbody), hbody, DecodeResult.fit, List.length_nil,
      Nat.zero_add]
    rfl
  | cons q ps ih =>
    obtain ⟨hq, htail⟩ := encodes_wrap.mp he
    obtain ⟨room, rfl⟩ := Nat.exists_eq_add_one.mpr (Nat.zero_lt_of_lt hroom)
    rw [decodeWithin_succ_some hq, ih htail (Nat.lt_of_succ_lt_succ hroom), apply_ite (DecodeResult.under q),
      List.length_cons, Nat.add_right_comm]
    exact if_congr Nat.add_le_add_iff_right.symm rfl rfl

/-- What decodes is encoded there, within the room left (R344, R309). -/
theorem encodes_of_decodeWithin {p : Params} {room : Nat} {c : Code} {i : Instr} (h : decodeWithin p room c = .ok i) :
    Encodes p c i ∧ 1 ≤ i.len ∧ i.len ≤ room := by
  induction room generalizing c i with
  | zero => cases h
  | succ room ih =>
    cases hq : prefixAt p (c 0) with
    | none =>
      rw [decodeWithin_succ_none hq] at h
      have hspec := bodySpec_decodeBody hq
      cases hbody : decodeBody c with
      | error why n => rw [hbody] at h; cases h
      | ok j =>
        rw [hbody, DecodeResult.fit] at h
        rw [hbody] at hspec
        obtain ⟨henc, -⟩ := hspec
        split at h <;> cases h
        next hlen => exact ⟨henc, (shortLen_of_wf (isPrefix_of_decodeBody hbody) henc.2).1, hlen⟩
    | some q =>
      rw [decodeWithin_succ_some hq] at h
      obtain ⟨j, hj, rfl⟩ := under_eq_ok h
      obtain ⟨henc, -, hlen⟩ := ih hj
      have hwrap : (q.wrap j).len = j.len + 1 := by cases q <;> rfl
      exact ⟨encodes_wrap.mpr ⟨hq, henc⟩, by omega, by omega⟩

/-! ### What decoding reads -/

theorem encodes_congr {p : Params} {c d : Code} {i : Instr} (h : ∀ k, k < i.len → c k = d k) (he : Encodes p c i) :
    Encodes p d i := by
  obtain ⟨hbytes, hw⟩ := he
  have hlen : i.encode.length = i.len := Laws.Size.every i
  exact ⟨standsAt_congr (fun k hk => h k (by omega)) hbytes, hw⟩

/-- The opcode map reads at least the opcode byte, and depends on what it reads only (R345). -/
theorem decodeBody_congr {p : Params} {c d : Code} (hp : prefixAt p (c 0) = none)
    (h : ∀ k, k < (decodeBody c).read → c k = d k) : 1 ≤ (decodeBody c).read ∧ decodeBody d = decodeBody c := by
  have hspec := bodySpec_decodeBody hp
  cases hbody : decodeBody c with
  | ok i =>
    rw [hbody] at h hspec
    obtain ⟨henc, -⟩ := hspec
    have hi := isPrefix_of_decodeBody hbody
    exact ⟨(shortLen_of_wf hi henc.2).1, decodeBody_of_encodes hi (encodes_congr h henc)⟩
  | error why n =>
    rw [hbody] at h hspec
    obtain ⟨-, -, hn, hlocal⟩ := hspec
    exact ⟨hn, hlocal d h⟩

theorem read_under (q : Prefix) (r : DecodeResult) : (r.under q).read = r.read + 1 := by
  cases r
  case ok i => cases q <;> rfl
  case error why n => rfl

/-- Decoding depends on the bytes it reads and on LOCK_PREFIX and the room only (R345). -/
theorem decodeWithin_congr {p q : Params} (hlock : p.lockPrefix = q.lockPrefix) {room : Nat} {c d : Code}
    (h : ∀ k, k < (decodeWithin p room c).read → c k = d k) : decodeWithin q room d = decodeWithin p room c := by
  induction room generalizing c d with
  | zero => rfl
  | succ room ih =>
    cases hpre : prefixAt p (c 0) with
    | none =>
      rw [decodeWithin_succ_none hpre, read_fit] at h
      obtain ⟨hread, hbody⟩ := decodeBody_congr hpre h
      have hpre' : prefixAt q (d 0) = none := by rw [← h 0 hread, ← prefixAt_congr hlock, hpre]
      rw [decodeWithin_succ_none hpre, decodeWithin_succ_none hpre', hbody]
    | some x =>
      rw [decodeWithin_succ_some hpre, read_under] at h
      have hpre' : prefixAt q (d 0) = some x := by rw [← h 0 (Nat.succ_pos _), ← prefixAt_congr hlock, hpre]
      rw [decodeWithin_succ_some hpre, decodeWithin_succ_some hpre', ih fun k hk => h (k + 1) (Nat.succ_lt_succ hk)]

/-! ### Too many prefixes -/

theorem decodeWithin_of_prefixes {p : Params} {room : Nat} {c : Code}
    (h : ∀ k, k < room → (prefixAt p (c k)).isSome = true) : decodeWithin p room c = .error .tooLong room := by
  have hcount := prefixCount_eq le_rfl h fun hlt => absurd hlt (Nat.lt_irrefl _)
  rcases decodeWithin_cases p room c with ⟨-, hdec⟩ | ⟨qs, hqs, hlt, -⟩
  · exact hdec
  · omega

/-! ### No prefixes -/

/-- Without prefixes, and with room for the longest instruction, decoding is the opcode map (R309, R346). -/
theorem decode_eq_decodeBody {p : Params} {c : Code} (hmax : 6 ≤ p.maxInsnLen) (hp : prefixAt p (c 0) = none) :
    decode p c = decodeBody c := by
  obtain ⟨room, hroom⟩ := Nat.exists_eq_add_one.mpr (Nat.zero_lt_of_lt hmax)
  have hspec := bodySpec_decodeBody hp
  rw [decode, hroom, decodeWithin_succ_none hp]
  cases hbody : decodeBody c with
  | error why n => rfl
  | ok i =>
    rw [hbody] at hspec
    obtain ⟨⟨-, hw⟩, -⟩ := hspec
    obtain ⟨-, hlen⟩ := shortLen_of_wf (isPrefix_of_decodeBody hbody) hw
    exact if_pos (by omega)

end Sys2Proof.Machine

open Sys2Proof Sys2Proof.Machine

/-- Settles O1: the loop takes the prefixes, the opcode map the rest. -/
theorem decodeOfEncode : Obligations.DecodeOfEncode := by
  unfold Obligations.DecodeOfEncode
  intro p i c hencodable hbytes
  obtain ⟨hw, hlen⟩ := Bool.and_eq_true_iff.mp hencodable
  have hlen := of_decide_eq_true hlen
  obtain ⟨ps, j, hj, rfl⟩ := exists_eq_wrapAll i
  obtain ⟨hpos, -⟩ := shortLen_of_wf hj (wf_of_wrapAll hw)
  rw [len_wrapAll] at hlen
  exact (decodeWithin_of_encodes hj (encodes_of_getD hw hbytes) (by omega)).trans (if_pos hlen)

/-- Settles O2: what decodes is encoded at the start of the stream. -/
theorem encodeOfDecode : Obligations.EncodeOfDecode := by
  unfold Obligations.EncodeOfDecode
  intro p c i h
  obtain ⟨⟨hbytes, hw⟩, hlen⟩ := encodes_of_decodeWithin h
  have hsize : i.encode.length = i.len := Laws.Size.every i
  exact ⟨hsize ▸ hbytes.eq_map, hw, hlen⟩

/-- Settles O3: an instruction decodes wherever its bytes stand, and an error says how many bytes decided it. -/
theorem decodeReadsOnlyItsBytes : Obligations.DecodeReadsOnlyItsBytes := by
  unfold Obligations.DecodeReadsOnlyItsBytes
  refine ⟨fun p q c d hlock hmax h => ?_, State.fetched_sameTuple⟩
  rw [decode, ← hmax]
  exact decodeWithin_congr hlock h

/-- Settles O4: with this much room decoding is the opcode map, which rejects what R350 lists. -/
theorem invalidEncodings : Obligations.InvalidEncodings := by
  unfold Obligations.InvalidEncodings
  intro p c hmax hp
  have hspec := bodySpec_decodeBody hp
  rw [decode_eq_decodeBody hmax hp]
  cases hbody : decodeBody c with
  | ok i =>
    rw [hbody] at hspec
    obtain ⟨-, hlisted⟩ := hspec
    simp [hlisted]
  | error why n =>
    rw [hbody] at hspec
    obtain ⟨hlisted, hwhy, -⟩ := hspec
    refine ⟨⟨fun _ => hlisted, fun _ => ⟨why, n, rfl⟩⟩, ?_⟩
    rintro _ _ ⟨⟩
    exact hwhy

/-- Settles O5: the prefixes use up the room, or what they leave is compared with the length of the instruction. -/
theorem lengthLimit : Obligations.LengthLimit := by
  unfold Obligations.LengthLimit
  refine ⟨fun p c => decodeWithin_of_prefixes, fun p ps i c hi hw hlt hbytes => ?_⟩
  exact decodeWithin_of_encodes hi (encodes_of_getD hw (len_wrapAll ps i ▸ hbytes)) hlt

/-- Settles O6: the words are literal, so decoding them computes. -/
theorem sampleWordsDecode : Obligations.SampleWordsDecode := by
  unfold Obligations.SampleWordsDecode
  exact ⟨rfl, rfl, rfl, rfl, rfl, rfl, rfl, rfl, rfl, rfl, rfl, rfl⟩
end

section
/-! PROOFS. The decode context that prefixes give (R303 to R308). -/

namespace Sys2Proof.Machine

/-- The last of the prefixes replaces the override if it is one, and is ignored otherwise (R306). -/
theorem segOverride_concat (ps : List Prefix) :
    segOverride (ps ++ [.es]) = some .es ∧ segOverride (ps ++ [.cs]) = some .cs ∧
    segOverride (ps ++ [.ss]) = some .ss ∧ segOverride (ps ++ [.ds]) = some .ds ∧
    ∀ q ∈ [Prefix.rep, .repne, .lock], segOverride (ps ++ [q]) = segOverride ps := by
  simp [segOverride]

/-- The last of the prefixes replaces the repeat mode if it is one, and is ignored otherwise (R305, R306). -/
theorem repeatMode_concat (ps : List Prefix) :
    repeatMode (ps ++ [.rep]) = some .repE ∧ repeatMode (ps ++ [.repne]) = some .repNe ∧
    ∀ q ∈ [Prefix.es, .cs, .ss, .ds, .lock], repeatMode (ps ++ [q]) = repeatMode ps := by
  simp [repeatMode]

/-- NOP under one of the prefixes moves ip past the two bytes and nothing else (R308, R703). -/
theorem exec_wrap_nop {s : State} (q : Prefix) (hfull : s.params.execProfile = .full)
    (hlock : q = .lock → s.params.lockPrefix = .ignore) :
    exec (q.wrap .nop) s = .next { s with ip := s.ip + 2, status := .continued } := by
  have hallows : s.allows [q] := fun hmem => hlock (List.mem_singleton.mp hmem).symm
  exact (exec_wrapAll [q] .nop s hallows).trans (complete_executes nopBody (.inl hfull) nofun)

/-- LOCK that the parameters do not allow is a decode error of its byte (R307). -/
theorem exec_lock_of_invalid {s : State} (j : Instr) (h : s.params.lockPrefix = .invalid) :
    exec (.lock j) s = .next { s with status := .decodeError .invalidOpcode (flat s.cs s.ip) [0xF0#8] } := by
  have hne : s.params.lockPrefix ≠ .ignore := by rw [h]; nofun
  exact if_neg hne

end Sys2Proof.Machine

open Sys2Proof Sys2Proof.Machine

/-- Settles O49: the context is a fold over the prefixes, so it is read off the last one; before NOP it is not read. -/
theorem prefixContext : Obligations.PrefixContext := by
  unfold Obligations.PrefixContext
  refine ⟨⟨rfl, rfl⟩, fun ps => ?_, fun ps i s => ⟨rfl, rfl, rfl⟩, fun s hfull => ?_, fun j s => exec_lock_of_invalid j⟩
  · obtain ⟨hes, hcs, hss, hds, hother⟩ := segOverride_concat ps
    obtain ⟨hrep, hrepne, hother'⟩ := repeatMode_concat ps
    exact ⟨hes, hcs, hss, hds, hrep, hrepne, hother, hother'⟩
  · exact ⟨exec_wrap_nop .es hfull nofun, exec_wrap_nop .cs hfull nofun, exec_wrap_nop .ss hfull nofun,
      exec_wrap_nop .ds hfull nofun, exec_wrap_nop .rep hfull nofun, exec_wrap_nop .repne hfull nofun,
      fun hlock => exec_wrap_nop .lock hfull fun _ => hlock⟩
end
